-- ==== Sys2Proof/Word.lean ====
section
/-!
DEFINITION. The widths the spec gives its values (00_scope.md R10, R11; 30_encoding.md R81, R92).
All values are unsigned; bit 0 is the least significant bit (R11).
-/

namespace Sys2Proof

/-- One byte: an operand, a wire byte, a byte of `DEC_BUF` or `REC` (20_memory.md R67). -/
abbrev Byte := BitVec 8

/-- A command word, presented whole on `CMD` (30_encoding.md R92). -/
abbrev CmdWord := BitVec 16

/-- The `res` field of a response, `RESW` = 32 bits (00_scope.md R10). -/
abbrev Res := BitVec 32

/-- A checksum accumulator, `ACCW` = 32 bits (00_scope.md R10; 10_state.md R21, R22). -/
abbrev Acc := BitVec 32

/-- The 5-tuple `(year, month, day, hour, minute)` of non-negative integers that the year rule
compares (43_event_unpacker.md R213). -/
structure DateTime where
  year : Nat
  month : Nat
  day : Nat
  hour : Nat
  minute : Nat
deriving DecidableEq, Repr

end Sys2Proof
end

