-- ==== Sys2Proof/Syntax.lean ====
section
/-!
DEFINITION. The 26 operations of spec/opcode_table.json and 30_encoding.md R94, one constructor each. An operand is
one unsigned byte, used as is (R93).
-/

namespace Sys2Proof

inductive Instr where
  /-- `CS.INIT`, 40_checksum.md R127. -/
  | csInit
  /-- `CS.BYTE d`, R128: `d` is a data byte. -/
  | csByte (d : Byte)
  /-- `CS.RDHI`, R129. -/
  | csRdhi
  /-- `CS.RDLO`, R130. -/
  | csRdlo
  /-- `CS.RDACC`, R131. -/
  | csRdacc
  /-- `ENC.START d`, 41_frame_encoder.md R143: `d` is the command byte. -/
  | encStart (d : Byte)
  /-- `ENC.BYTE d`, R144: `d` is a payload byte. -/
  | encByte (d : Byte)
  /-- `ENC.END`, R145. -/
  | encEnd
  /-- `DEC.RESET`, 42_frame_decoder.md R172. -/
  | decReset
  /-- `DEC.PUSH d`, R164: `d` is the received byte. -/
  | decPush (d : Byte)
  /-- `DEC.RDCMD`, R173. -/
  | decRdcmd
  /-- `DEC.RDLEN`, R174. -/
  | decRdlen
  /-- `DEC.RDPAY d`, R175: `d` is a payload index. -/
  | decRdpay (d : Byte)
  /-- `DEC.RDSTAT`, R176. -/
  | decRdstat
  /-- `EVT.CLEAR`, 43_event_unpacker.md R201. -/
  | evtClear
  /-- `EVT.PUSH d`, R202: `d` is a record byte. -/
  | evtPush (d : Byte)
  /-- `EVT.UNPACK`, R204. -/
  | evtUnpack
  /-- `EVT.RD d`, R206: `d` is a field selector. -/
  | evtRd (d : Byte)
  /-- `EVT.YEAR`, R215. -/
  | evtYear
  /-- `EVT.REFYH d`, R216: `d` is the high byte of the reference year. -/
  | evtRefyh (d : Byte)
  /-- `EVT.REFYL d`, R217: `d` is the low byte of the reference year. -/
  | evtRefyl (d : Byte)
  /-- `EVT.REFMON d`, R218. -/
  | evtRefmon (d : Byte)
  /-- `EVT.REFDAY d`, R219. -/
  | evtRefday (d : Byte)
  /-- `EVT.REFHOUR d`, R220. -/
  | evtRefhour (d : Byte)
  /-- `EVT.REFMIN d`, R221. -/
  | evtRefmin (d : Byte)
  /-- `SYS.RESET`, 70_reset_and_hazards.md R300. -/
  | sysReset
deriving DecidableEq, Repr

/-- Which unit an operation belongs to (00_scope.md R3); the high nibble of `op` names it (30_encoding.md R94). -/
inductive OpUnit where
  | cs
  | enc
  | dec
  | evt
  | sys
deriving DecidableEq, Repr

def Instr.unit : Instr → OpUnit
  | .csInit => .cs
  | .csByte _ => .cs
  | .csRdhi => .cs
  | .csRdlo => .cs
  | .csRdacc => .cs
  | .encStart _ => .enc
  | .encByte _ => .enc
  | .encEnd => .enc
  | .decReset => .dec
  | .decPush _ => .dec
  | .decRdcmd => .dec
  | .decRdlen => .dec
  | .decRdpay _ => .dec
  | .decRdstat => .dec
  | .evtClear => .evt
  | .evtPush _ => .evt
  | .evtUnpack => .evt
  | .evtRd _ => .evt
  | .evtYear => .evt
  | .evtRefyh _ => .evt
  | .evtRefyl _ => .evt
  | .evtRefmon _ => .evt
  | .evtRefday _ => .evt
  | .evtRefhour _ => .evt
  | .evtRefmin _ => .evt
  | .sysReset => .sys

/-- The mnemonic of 30_encoding.md R94 and R97, as spec/opcode_table.json spells it. -/
def Instr.mnemonic : Instr → String
  | .csInit => "CS.INIT"
  | .csByte _ => "CS.BYTE"
  | .csRdhi => "CS.RDHI"
  | .csRdlo => "CS.RDLO"
  | .csRdacc => "CS.RDACC"
  | .encStart _ => "ENC.START"
  | .encByte _ => "ENC.BYTE"
  | .encEnd => "ENC.END"
  | .decReset => "DEC.RESET"
  | .decPush _ => "DEC.PUSH"
  | .decRdcmd => "DEC.RDCMD"
  | .decRdlen => "DEC.RDLEN"
  | .decRdpay _ => "DEC.RDPAY"
  | .decRdstat => "DEC.RDSTAT"
  | .evtClear => "EVT.CLEAR"
  | .evtPush _ => "EVT.PUSH"
  | .evtUnpack => "EVT.UNPACK"
  | .evtRd _ => "EVT.RD"
  | .evtYear => "EVT.YEAR"
  | .evtRefyh _ => "EVT.REFYH"
  | .evtRefyl _ => "EVT.REFYL"
  | .evtRefmon _ => "EVT.REFMON"
  | .evtRefday _ => "EVT.REFDAY"
  | .evtRefhour _ => "EVT.REFHOUR"
  | .evtRefmin _ => "EVT.REFMIN"
  | .sysReset => "SYS.RESET"

end Sys2Proof
end

