-- ==== Sys2Proof/WellFormed.lean ====
section
/-!
DEFINITION. Which command words are operations (30_encoding.md R94 to R96), written as the rows of
spec/opcode_table.json (mask and match), apart from the decoder, so that the two can be held against each other.
Every term of `Instr` is well-formed: an operand is any byte (R93) and no other constraint exists. What can be
ill-formed is a command word; the two checks of R96 are that its `op` is assigned and that an operation without
operand has `d = 0x00`.
-/

namespace Sys2Proof

/-- One row of spec/opcode_table.json. -/
structure OpRow where
  mnemonic : String
  mask : CmdWord
  pattern : CmdWord
deriving DecidableEq, Repr

/-- A row of an operation whose `d` must be zero: mask `0xFFFF` (30_encoding.md R94, R95). -/
def plainRow (name : String) (word : CmdWord) : OpRow := ⟨name, 0xFFFF, word⟩

/-- A row of an operation with an operand byte: mask `0xFF00` (30_encoding.md R94). -/
def operandRow (name : String) (word : CmdWord) : OpRow := ⟨name, 0xFF00, word⟩

def csRows : List OpRow :=
  [plainRow "CS.INIT" 0x1000, operandRow "CS.BYTE" 0x1100, plainRow "CS.RDHI" 0x1200,
   plainRow "CS.RDLO" 0x1300, plainRow "CS.RDACC" 0x1400]

def encRows : List OpRow :=
  [operandRow "ENC.START" 0x2000, operandRow "ENC.BYTE" 0x2100, plainRow "ENC.END" 0x2200]

def decRows : List OpRow :=
  [plainRow "DEC.RESET" 0x3000, operandRow "DEC.PUSH" 0x3100, plainRow "DEC.RDCMD" 0x3200,
   plainRow "DEC.RDLEN" 0x3300, operandRow "DEC.RDPAY" 0x3400, plainRow "DEC.RDSTAT" 0x3500]

def evtRows : List OpRow :=
  [plainRow "EVT.CLEAR" 0x4000, operandRow "EVT.PUSH" 0x4100, plainRow "EVT.UNPACK" 0x4200,
   operandRow "EVT.RD" 0x4300, plainRow "EVT.YEAR" 0x4400, operandRow "EVT.REFYH" 0x4800,
   operandRow "EVT.REFYL" 0x4900, operandRow "EVT.REFMON" 0x4A00, operandRow "EVT.REFDAY" 0x4B00,
   operandRow "EVT.REFHOUR" 0x4C00, operandRow "EVT.REFMIN" 0x4D00]

def sysRows : List OpRow := [plainRow "SYS.RESET" 0xF000]

/-- The whole opcode table (spec/opcode_table.json, 30_encoding.md R94). -/
def opTable : List OpRow := csRows ++ encRows ++ decRows ++ evtRows ++ sysRows

/-- The word lies in the row. -/
def OpRow.covers (r : OpRow) (cw : CmdWord) : Bool := cw &&& r.mask == r.pattern

/-- A command word is an operation: some row of the table covers it (30_encoding.md R96). -/
def wellFormedWord (cw : CmdWord) : Bool := opTable.any (·.covers cw)

end Sys2Proof
end

