-- ==== Sys2Proof/Decode.lean ====
section
/-!
DEFINITION. The decoder, total on every 16-bit command word and rejecting by name, and the encoder, both from
30_encoding.md R92 to R96.
-/

namespace Sys2Proof

/-- Why a command word is no operation (30_encoding.md R96). -/
inductive DecodeError where
  /-- `op` is not in the table of R94. -/
  | unassignedOp (op : Byte)
  /-- `op` takes no operand and `d` is not `0x00` (R95). -/
  | operandNotZero (op d : Byte)
deriving DecidableEq, Repr

/-- `cw[15:8]` (30_encoding.md R92). -/
def opField (cw : CmdWord) : Byte := cw.extractLsb' 8 8

/-- `cw[7:0]` (30_encoding.md R92). -/
def operandField (cw : CmdWord) : Byte := cw.extractLsb' 0 8

/-- An operation without operand: `d` must be `0x00` (30_encoding.md R95). -/
def noOperand (i : Instr) (op d : Byte) : Except DecodeError Instr :=
  if d = 0 then .ok i else .error (.operandNotZero op d)

/-- The opcode map of 30_encoding.md R94. -/
def decodeFields (op d : Byte) : Except DecodeError Instr :=
  match op.toNat with
  | 0x10 => noOperand .csInit op d
  | 0x11 => .ok (.csByte d)
  | 0x12 => noOperand .csRdhi op d
  | 0x13 => noOperand .csRdlo op d
  | 0x14 => noOperand .csRdacc op d
  | 0x20 => .ok (.encStart d)
  | 0x21 => .ok (.encByte d)
  | 0x22 => noOperand .encEnd op d
  | 0x30 => noOperand .decReset op d
  | 0x31 => .ok (.decPush d)
  | 0x32 => noOperand .decRdcmd op d
  | 0x33 => noOperand .decRdlen op d
  | 0x34 => .ok (.decRdpay d)
  | 0x35 => noOperand .decRdstat op d
  | 0x40 => noOperand .evtClear op d
  | 0x41 => .ok (.evtPush d)
  | 0x42 => noOperand .evtUnpack op d
  | 0x43 => .ok (.evtRd d)
  | 0x44 => noOperand .evtYear op d
  | 0x48 => .ok (.evtRefyh d)
  | 0x49 => .ok (.evtRefyl d)
  | 0x4A => .ok (.evtRefmon d)
  | 0x4B => .ok (.evtRefday d)
  | 0x4C => .ok (.evtRefhour d)
  | 0x4D => .ok (.evtRefmin d)
  | 0xF0 => noOperand .sysReset op d
  | _ => .error (.unassignedOp op)

/-- The operation a command word asks for, or why it is none (30_encoding.md R92 to R96). -/
def decode (cw : CmdWord) : Except DecodeError Instr := decodeFields (opField cw) (operandField cw)

/-- `(op << 8) | d` (30_encoding.md R97). -/
def commandWord (op d : Byte) : CmdWord := op ++ d

/-- The command word of an operation (30_encoding.md R94, R97). -/
def encode : Instr → CmdWord
  | .csInit => commandWord 0x10 0
  | .csByte d => commandWord 0x11 d
  | .csRdhi => commandWord 0x12 0
  | .csRdlo => commandWord 0x13 0
  | .csRdacc => commandWord 0x14 0
  | .encStart d => commandWord 0x20 d
  | .encByte d => commandWord 0x21 d
  | .encEnd => commandWord 0x22 0
  | .decReset => commandWord 0x30 0
  | .decPush d => commandWord 0x31 d
  | .decRdcmd => commandWord 0x32 0
  | .decRdlen => commandWord 0x33 0
  | .decRdpay d => commandWord 0x34 d
  | .decRdstat => commandWord 0x35 0
  | .evtClear => commandWord 0x40 0
  | .evtPush d => commandWord 0x41 d
  | .evtUnpack => commandWord 0x42 0
  | .evtRd d => commandWord 0x43 d
  | .evtYear => commandWord 0x44 0
  | .evtRefyh d => commandWord 0x48 d
  | .evtRefyl d => commandWord 0x49 d
  | .evtRefmon d => commandWord 0x4A d
  | .evtRefday d => commandWord 0x4B d
  | .evtRefhour d => commandWord 0x4C d
  | .evtRefmin d => commandWord 0x4D d
  | .sysReset => commandWord 0xF0 0

/-- The command word the host's table number `w` stands for: its low `nbits` bits, the bits above them zero. A
number that is no 16-bit word stands for none. -/
def tableWord (nbits w : Nat) : Option CmdWord :=
  if w % 2 ^ nbits < 2 ^ 16 then some (BitVec.ofNat 16 (w % 2 ^ nbits)) else none

/-- What the decoder reads from a word numbered as spec/opcode_table.json numbers it: the command word is one
16-bit word, so its bits are the table's bits. -/
def decodeTableWord (nbits w : Nat) : Option Instr :=
  match tableWord nbits w with
  | some cw => (decode cw).toOption
  | none => none

end Sys2Proof
end

