-- ==== Sys2Proof/Config.lean ====
section
/-!
DEFINITION. What is fixed for one block: the constants of 00_scope.md R9 and the one open parameter of R10,
`DEC_CAP`. The spec leaves no result undefined (93_implementation_defined.md, part 1), so there is no free value.
-/

namespace Sys2Proof

/-- The open parameter of 00_scope.md R10: `DEC_CAP`, how many unescaped bytes the decoder can hold for one
frame. It is plain data carried by the state and changed by no step, so that a claim about every state is a
claim about every capacity (log entry 5). -/
structure Config where
  decCap : Nat
deriving DecidableEq, Repr

/-- The constraint of 00_scope.md R10: `14 ≤ DEC_CAP ≤ 259`. -/
abbrev Config.wf (c : Config) : Prop := 14 ≤ c.decCap ∧ c.decCap ≤ 259

/-- The capacity 00_scope.md R10 recommends (log entry 5). -/
abbrev Config.recommended : Config := ⟨259⟩

/-- `CS_INIT`, the starting accumulator of every checksum (R9, 40_checksum.md R120). -/
abbrev Config.csInit : Nat := 0x147A

/-- `FLAG`, which is also `SD0`, `SD1`, `ED0` and `ESC0` (R9): the one byte value that is stuffed. -/
abbrev Config.flag : Byte := 0xFE

/-- `ESC1`, the second byte of an escape pair (R9). -/
abbrev Config.esc1 : Byte := 0xF0

/-- `ED1`, the second byte of the end delimiter (R9). -/
abbrev Config.ed1 : Byte := 0x0D

/-- `REC_LEN`, bytes in an event record (R9). -/
abbrev Config.recLen : Nat := 8

/-- `CURSOR_LEN`, bytes in a log cursor, of the host only (R9). -/
abbrev Config.cursorLen : Nat := 3

/-- `READ_EVENT_CMD`, the one wire opcode the host uses (R9, 44_host_controller.md R241). -/
abbrev Config.readEventCmd : Byte := 0x8C

/-- `PORT`, the transport's port, of the host only; nothing in the block reads it (R9). -/
abbrev Config.port : Nat := 7094

end Sys2Proof
end

