-- ==== Sys2Proof/Machine/State.lean ====
section
/-!
DEFINITION. The machine's state: exactly the registers and buffers of 10_state.md R20, grouped by the unit that
owns them (20_memory.md R71), and the block's ports (30_encoding.md R80) as plain data.
-/

namespace Sys2Proof.Machine

/-- A byte buffer of the block (20_memory.md R60) as a list of (index, byte) pairs in one canonical form: indices
strictly rising, no entry equal to what an unlisted index reads as (log entry 8). -/
abbrev Memory := List Host.Cell

/-- `ENC_ST` (10_state.md R22). -/
inductive EncSt where
  | idle
  | body
deriving DecidableEq, Repr

/-- `DEC_ST` (10_state.md R23). -/
inductive DecSt where
  | hunt
  | huntFe
  | body
  | bodyFe
deriving DecidableEq, Repr

/-- The status codes by name (60_exceptions.md R271); their 8-bit values are `Status.code`. -/
inductive Status where
  | ok
  | needMore
  | frameOk
  | malformedChecksum
  | malformedBadEscape
  | malformedTooShort
  | malformedOverflow
  | decodeFailure
  | seqError
  | notValid
  | indexError
  | refInvalid
  | illegalOp
deriving DecidableEq, Repr

/-- A response on `RSP` (30_encoding.md R81): `status` 8 bits, `res` 32 bits, `tx` the bytes this operation sent. -/
structure Response where
  status : BitVec 8
  res : Res
  tx : List Byte
deriving DecidableEq, Repr

/-- What the host can present between two operations: a command word on `CMD`, or the reset input `RST`
(30_encoding.md R80; log entries 1 and 2). -/
inductive Input where
  | command (cw : CmdWord)
  | rst
deriving DecidableEq, Repr

/-- The checksum engine: `CS_ACC` (10_state.md R21). -/
structure CsUnit where
  acc : Acc
deriving DecidableEq, Repr

/-- The frame encoder: `ENC_ST`, `ENC_ACC` (10_state.md R22). -/
structure EncUnit where
  st : EncSt
  acc : Acc
deriving DecidableEq, Repr

/-- The frame decoder: `DEC_ST`, `DEC_BUF`, `DEC_CNT`, `DEC_OVF`, `DEC_VALID`, `DEC_ERR` (10_state.md R23 to R25). -/
structure DecUnit where
  st : DecSt
  buf : Memory
  cnt : Nat
  ovf : Bool
  valid : Bool
  err : BitVec 8
deriving DecidableEq, Repr

/-- The eleven field registers `F_YM` to `F_SOURCE` (10_state.md R28). -/
structure EventFields where
  ym : BitVec 2
  z : Bool
  day : BitVec 5
  month : BitVec 4
  hourMin : BitVec 12
  hour : BitVec 7
  minute : BitVec 6
  restore : Bool
  partition : BitVec 5
  code : BitVec 10
  source : BitVec 8
deriving DecidableEq, Repr

/-- The reference date and time `REF_YEAR` to `REF_MIN` (10_state.md R29). -/
structure Reference where
  year : BitVec 16
  month : BitVec 8
  day : BitVec 8
  hour : BitVec 8
  minute : BitVec 8
deriving DecidableEq, Repr

/-- The event unit: `REC`, `REC_CNT` (10_state.md R27), `EVT_VALID` and the fields (R28), the reference (R29),
`YEAR_VALID`, `F_YEAR`, `F_DATE_OK` (R30). -/
structure EvtUnit where
  record : Memory
  recCnt : Nat
  valid : Bool
  fields : EventFields
  ref : Reference
  yearValid : Bool
  year : BitVec 16
  dateOk : Bool
deriving DecidableEq, Repr

/-- The whole state. `cs`, `enc`, `dec`, `evt` are the tuple of 10_state.md R20. `cfg` is the open parameter
`DEC_CAP` (log entry 5). `inputs` is what the host presents next on `CMD` and `RST`, the first element first (log
entries 1 and 2). `rsp` is the response to the latest command word (log entry 3). `txLog` is the transmit history,
which no operation reads (30_encoding.md R82; log entry 4). -/
structure State where
  cfg : Config
  cs : CsUnit
  enc : EncUnit
  dec : DecUnit
  evt : EvtUnit
  inputs : List Input
  rsp : Option Response
  txLog : List Byte
deriving DecidableEq, Repr

/-- The one reason a step can stop. -/
inductive Fault where
  /-- Raised by `DEC.PUSH` (judging a frame), `DEC.RDCMD` and `DEC.RDPAY` when they would read a byte of `DEC_BUF` at
  an index at or beyond `DEC_CAP`, a byte that does not exist (20_memory.md R60). Safe: the model stops where the
  spec gives no value, and no state that meets the invariant of 10_state.md R31 raises it (log entry 7). -/
  | noBufferByte (index : Nat)
deriving DecidableEq, Repr

/-- Reasons an instruction has no meaning in the model. -/
inductive Refusal where
  /-- An arm of `exec` without a meaning would raise it; no arm does. Safe: the model stops. -/
  | notModelled (mnemonic : String)
deriving DecidableEq, Repr

/-- Every field register zero (10_state.md R38). -/
def EventFields.zero : EventFields := ⟨0, false, 0, 0, 0, 0, 0, false, 0, 0, 0⟩

/-- Every reference register zero (10_state.md R38). -/
def Reference.zero : Reference := ⟨0, 0, 0, 0, 0⟩

/-- The checksum engine after reset (10_state.md R38). -/
def CsUnit.reset : CsUnit := ⟨0x0000147A⟩

/-- The frame encoder after reset (10_state.md R38). -/
def EncUnit.reset : EncUnit := ⟨.idle, 0x0000147A⟩

/-- The frame decoder after reset (10_state.md R38). -/
def DecUnit.reset : DecUnit := ⟨.hunt, [], 0, false, false, 0x00⟩

/-- The event unit after reset (10_state.md R38). -/
def EvtUnit.reset : EvtUnit := ⟨[], 0, false, .zero, .zero, false, 0, false⟩

/-- The machine right after reset: every register at the value of 10_state.md R38; nothing presented, nothing
answered, nothing sent; the recommended `DEC_CAP` (log entries 1, 3, 4, 5). -/
def State.reset : State := ⟨.recommended, .reset, .reset, .reset, .reset, [], none, []⟩

end Sys2Proof.Machine
end

