-- ==== Sys2Proof/Machine/Flags.lean ====
section
/-!
DEFINITION. The status codes and status words (60_exceptions.md R271, 42_frame_decoder.md R176), and the calendar
tests behind `F_DATE_OK` and the reference's legality (43_event_unpacker.md R212 to R214).
-/

namespace Sys2Proof.Machine

/-- The 8-bit value of a status (60_exceptions.md R271). -/
def Status.code : Status → BitVec 8
  | .ok => 0x00
  | .needMore => 0x01
  | .frameOk => 0x02
  | .malformedChecksum => 0x10
  | .malformedBadEscape => 0x11
  | .malformedTooShort => 0x12
  | .malformedOverflow => 0x13
  | .decodeFailure => 0x20
  | .seqError => 0x30
  | .notValid => 0x31
  | .indexError => 0x32
  | .refInvalid => 0x33
  | .illegalOp => 0x3F

/-- The host errors, the second family of 60_exceptions.md R272. -/
def Status.isHostError : Status → Bool
  | .seqError | .notValid | .indexError | .refInvalid | .illegalOp => true
  | .ok | .needMore | .frameOk | .malformedChecksum | .malformedBadEscape | .malformedTooShort
  | .malformedOverflow | .decodeFailure => false

/-- A completion: a `DEC.PUSH` whose status is not `NEED_MORE` (00_scope.md, glossary). -/
def Status.isCompletion : Status → Bool
  | .frameOk | .malformedChecksum | .malformedBadEscape | .malformedTooShort | .malformedOverflow => true
  | .ok | .needMore | .decodeFailure | .seqError | .notValid | .indexError | .refInvalid | .illegalOp => false

/-- The number of `DEC_ST` (10_state.md R23). -/
def DecSt.code : DecSt → BitVec 2
  | .hunt => 0
  | .huntFe => 1
  | .body => 2
  | .bodyFe => 3

/-- The number of `ENC_ST` (10_state.md R22). -/
def EncSt.code : EncSt → BitVec 1
  | .idle => 0
  | .body => 1

/-- A flag as a bit. -/
def flagBit (b : Bool) : BitVec 1 := BitVec.ofBool b

/-- The word of `DEC.RDSTAT` (42_frame_decoder.md R176): `w[31:25] = 0`, `w[24:16] = DEC_CNT`, `w[15:8] = DEC_ERR`,
`w[7:4] = 0`, `w[3] = DEC_OVF`, `w[2] = DEC_VALID`, `w[1:0] = DEC_ST`. -/
def statusWord (u : DecUnit) : Res :=
  0#7 ++ BitVec.ofNat 9 u.cnt ++ u.err ++ 0#4 ++ flagBit u.ovf ++ flagBit u.valid ++ u.st.code

/-- `leap(y)` (43_event_unpacker.md R212; log entry 6). -/
def leap (y : Nat) : Bool := (y % 4 == 0 && y % 100 != 0) || y % 400 == 0

/-- `dim(y, mo)`, the days of a month (43_event_unpacker.md R212; log entry 6). It is read only for months 1 to 12. -/
def daysInMonth (y mo : Nat) : Nat :=
  if mo = 2 then (if leap y then 29 else 28)
  else if mo = 4 ∨ mo = 6 ∨ mo = 9 ∨ mo = 11 then 30
  else 31

/-- `valid_dt` (43_event_unpacker.md R212; log entry 6). -/
def validDt (t : DateTime) : Bool :=
  decide (1 ≤ t.month) && decide (t.month ≤ 12) && decide (1 ≤ t.day) &&
    decide (t.day ≤ daysInMonth t.year t.month) && decide (t.hour ≤ 23) && decide (t.minute ≤ 59)

/-- `after(t, ref)`: the strict lexicographic order on 5-tuples (43_event_unpacker.md R213). -/
def after (t ref : DateTime) : Bool :=
  if t.year ≠ ref.year then decide (ref.year < t.year)
  else if t.month ≠ ref.month then decide (ref.month < t.month)
  else if t.day ≠ ref.day then decide (ref.day < t.day)
  else if t.hour ≠ ref.hour then decide (ref.hour < t.hour)
  else decide (ref.minute < t.minute)

/-- The reference registers as a tuple (10_state.md R29). -/
def Reference.dateTime (r : Reference) : DateTime :=
  ⟨r.year.toNat, r.month.toNat, r.day.toNat, r.hour.toNat, r.minute.toNat⟩

/-- A reference is legal (43_event_unpacker.md R214). -/
def Reference.legal (r : Reference) : Bool := decide (4 ≤ r.year.toNat) && validDt r.dateTime

end Sys2Proof.Machine
end

