-- ==== Sys2Proof/Machine/Ops.lean ====
section
/-!
DEFINITION. The operations every unit shares: reading and writing a byte buffer, ending an operation with a response
(00_scope.md R14), the checksum (40_checksum.md R121 to R123), escaping (41_frame_encoder.md R141), reset
(70_reset_and_hazards.md R300) and the answer to an illegal word (30_encoding.md R96). The block takes no exception:
an error status is the whole of it (60_exceptions.md R270, R276), so `respond` is also what stands for exception entry,
and there is no return from one (R277).
-/

namespace Sys2Proof.Machine

/-! ### Byte buffers -/

/-- What an unlisted index reads as: the reset contents `0x00` of `DEC_BUF` and `REC` (10_state.md R38). -/
def unlistedByte : Byte := 0x00

/-- The byte at an index. -/
def Memory.read : Memory → Nat → Byte
  | [], _ => unlistedByte
  | (b, v) :: m, a => if a = b then v else Memory.read m a

/-- A new first entry, left out when an unlisted index already reads so. -/
def Memory.place (a : Nat) (v : Byte) (m : Memory) : Memory := if v = unlistedByte then m else (a, v) :: m

/-- Write one byte, keeping the canonical form. -/
def Memory.write : Memory → Nat → Byte → Memory
  | [], a, v => Memory.place a v []
  | (b, w) :: m, a, v =>
    if a < b then Memory.place a v ((b, w) :: m)
    else if a = b then Memory.place a v m
    else (b, w) :: Memory.write m a v

/-- The canonical form from a least index on. -/
def Memory.wfFrom (lo : Nat) : Memory → Bool
  | [] => true
  | (a, v) :: m => decide (lo ≤ a) && (v != unlistedByte) && Memory.wfFrom (a + 1) m

/-- The canonical form: indices strictly rising, no entry an unlisted index already reads as. -/
def Memory.wf (m : Memory) : Bool := Memory.wfFrom 0 m

/-- Every listed index lies below the buffer's size (20_memory.md R60). -/
def Memory.within (size : Nat) (m : Memory) : Bool := m.all fun c => decide (c.1 < size)

/-- The first `n` bytes, index 0 first. -/
def Memory.bytes (m : Memory) (n : Nat) : List Byte := (List.range n).map m.read

/-! ### Responses -/

/-- `respond(status, res, tx)` (00_scope.md R14): end the operation; `tx` leaves on the transmit stream in order
(20_memory.md R74). -/
def respond (st : Status) (res : Res) (tx : List Byte) (s : State) : Host.Outcome State Fault Refusal :=
  .next { s with rsp := some ⟨st.code, res, tx⟩, txLog := s.txLog ++ tx }

/-- `respond(OK, zext_32(res), [])`, how a read operation ends. -/
def answer (res : Res) (s : State) : Host.Outcome State Fault Refusal := respond .ok res [] s

/-- A status other than `OK` that records nothing: the state is as before (60_exceptions.md R273). -/
def decline (st : Status) (s : State) : Host.Outcome State Fault Refusal := respond st 0 [] s

/-- The answer to a command word that is no operation (30_encoding.md R96). -/
def illegalOp (s : State) : Host.Outcome State Fault Refusal := decline .illegalOp s

/-- `zext_32` of a byte (00_scope.md R14). -/
def zextByte (b : Byte) : Res := b.setWidth 32

/-! ### One unit's registers -/

def State.setCs (s : State) (u : CsUnit) : State := { s with cs := u }

def State.setEnc (s : State) (u : EncUnit) : State := { s with enc := u }

def State.setDec (s : State) (u : DecUnit) : State := { s with dec := u }

def State.setEvt (s : State) (u : EvtUnit) : State := { s with evt := u }

/-! ### The checksum, in unbounded non-negative integers (40_checksum.md R120 to R123, R135) -/

/-- `csum_step(a, b)` (40_checksum.md R121): a 16-bit left rotate by one, inversion, and an unmasked sum. -/
def csumStep (a b : Nat) : Nat :=
  let rotated := ((a <<< 1) &&& 0xFFFF) ||| ((a >>> 15) &&& 0x01)
  let inverted := rotated ^^^ 0xFFFF
  inverted + (inverted >>> 8) + b

/-- The step folded over a byte sequence, from any accumulator. -/
def csumFold (a : Nat) (bytes : List Byte) : Nat := bytes.foldl (fun a b => csumStep a b.toNat) a

/-- `checksum(bytes)` (40_checksum.md R122). -/
def checksum (bytes : List Byte) : Nat := csumFold Config.csInit bytes

/-- `crc_hi(a) = (a >> 8) & 0xFF` (40_checksum.md R123). -/
def crcHi (a : Nat) : Byte := BitVec.ofNat 8 ((a >>> 8) &&& 0xFF)

/-- `crc_lo(a) = a & 0xFF` (40_checksum.md R123). -/
def crcLo (a : Nat) : Byte := BitVec.ofNat 8 (a &&& 0xFF)

/-- One step on an accumulator register: the unmasked sum zero-extended to `ACCW` bits (40_checksum.md R128). -/
def accStep (a : Acc) (d : Byte) : Acc := BitVec.ofNat 32 (csumStep a.toNat d.toNat)

/-- The accumulator a checksum starts from (00_scope.md R9). -/
def accInit : Acc := BitVec.ofNat 32 Config.csInit

/-! ### The wire (30_encoding.md R83 to R86) -/

/-- `SD0 SD1` (00_scope.md R9). -/
def startDelimiter : List Byte := [Config.flag, Config.flag]

/-- `ED0 ED1` (00_scope.md R9). -/
def endDelimiter : List Byte := [Config.flag, Config.ed1]

/-- `esc(u)` (41_frame_encoder.md R141). -/
def esc (u : Byte) : List Byte := if u = Config.flag then [Config.flag, Config.esc1] else [u]

/-- Every byte of a sequence escaped (41_frame_encoder.md R140). -/
def escapeAll (us : List Byte) : List Byte := us.flatMap esc

/-! ### Reset -/

/-- Reset by the `RST` input or `SYS.RESET`: every register and buffer of 10_state.md R20 takes its value of R38;
the transmit history is unaffected (70_reset_and_hazards.md R300; log entry 4). -/
def resetUnits (s : State) : State :=
  { s with cs := .reset, enc := .reset, dec := .reset, evt := .reset }

/-- The `RST` input: reset, and no response (70_reset_and_hazards.md R300; log entries 2 and 3). -/
def resetInput (s : State) : State := { resetUnits s with rsp := none }

end Sys2Proof.Machine
end

