-- ==== Sys2Proof/Machine/ChecksumEngine.lean ====
section
/-!
DEFINITION. Unit `CS`: the meanings of `CS.INIT`, `CS.BYTE`, `CS.RDHI`, `CS.RDLO`, `CS.RDACC` (40_checksum.md R127 to
R131).
-/

namespace Sys2Proof.Machine

/-- `CS.INIT` (R127). -/
def execCsInit (s : State) : Host.Outcome State Fault Refusal := respond .ok 0 [] (s.setCs ⟨accInit⟩)

/-- `CS.BYTE d` (R128). -/
def execCsByte (d : Byte) (s : State) : Host.Outcome State Fault Refusal :=
  respond .ok 0 [] (s.setCs ⟨accStep s.cs.acc d⟩)

/-- `CS.RDHI` (R129). -/
def execCsRdhi (s : State) : Host.Outcome State Fault Refusal := answer (zextByte (crcHi s.cs.acc.toNat)) s

/-- `CS.RDLO` (R130). -/
def execCsRdlo (s : State) : Host.Outcome State Fault Refusal := answer (zextByte (crcLo s.cs.acc.toNat)) s

/-- `CS.RDACC` (R131). -/
def execCsRdacc (s : State) : Host.Outcome State Fault Refusal := answer s.cs.acc s

end Sys2Proof.Machine
end

