-- ==== Sys2Proof/Machine/Operands.lean ====
section
/-!
DEFINITION. What an operand byte selects (30_encoding.md R93): a payload index of `DEC_BUF` (42_frame_decoder.md
R175), a field selector of the event unit (43_event_unpacker.md R206), a half of `REF_YEAR` (R216, R217). A data byte
is used as is and needs nothing here.
-/

namespace Sys2Proof.Machine

/-- `DEC_BUF[i]`, if that byte exists (20_memory.md R60; log entry 7). -/
def bufferByte (cap : Nat) (u : DecUnit) (i : Nat) : Except Fault Byte :=
  if i < cap then .ok (u.buf.read i) else .error (.noBufferByte i)

/-- `DEC_PLEN = DEC_CNT - 3` (10_state.md R26; log entry 7). -/
def payloadLength (u : DecUnit) : Nat := u.cnt - 3

/-- A 1-bit register zero-extended to `res`. -/
def zextFlag (b : Bool) : Res := (flagBit b).setWidth 32

/-- The value a field selector returns and the flag it needs (43_event_unpacker.md R206); none above `0x0E`. -/
def selectField (u : EvtUnit) (d : Byte) : Option (Bool × Res) :=
  match d.toNat with
  | 0x00 => some (u.valid, u.fields.ym.setWidth 32)
  | 0x01 => some (u.valid, zextFlag u.fields.z)
  | 0x02 => some (u.valid, u.fields.day.setWidth 32)
  | 0x03 => some (u.valid, u.fields.month.setWidth 32)
  | 0x04 => some (u.valid, u.fields.hourMin.setWidth 32)
  | 0x05 => some (u.valid, u.fields.hour.setWidth 32)
  | 0x06 => some (u.valid, u.fields.minute.setWidth 32)
  | 0x07 => some (u.valid, zextFlag u.fields.restore)
  | 0x08 => some (u.valid, u.fields.partition.setWidth 32)
  | 0x09 => some (u.valid, u.fields.code.setWidth 32)
  | 0x0A => some (u.valid, u.fields.source.setWidth 32)
  | 0x0B => some (u.yearValid, u.year.setWidth 32)
  | 0x0C => some (u.yearValid, zextFlag u.dateOk)
  | 0x0D => some (u.valid, zextByte (u.record.read 0))
  | 0x0E => some (u.valid, zextByte (u.record.read 7))
  | _ => none

/-- `REF_YEAR[15:8] <- d` (43_event_unpacker.md R216). -/
def yearWithHigh (y : BitVec 16) (d : Byte) : BitVec 16 := d ++ y.extractLsb' 0 8

/-- `REF_YEAR[7:0] <- d` (43_event_unpacker.md R217). -/
def yearWithLow (y : BitVec 16) (d : Byte) : BitVec 16 := y.extractLsb' 8 8 ++ d

end Sys2Proof.Machine
end

