-- ==== Sys2Proof/Machine/EventUnpacker.lean ====
section
/-!
DEFINITION. Unit `EVT`: the bit layout `unpack` (43_event_unpacker.md R203), the year rule `resolve_year` (R211) and the
meanings of `EVT.CLEAR`, `EVT.PUSH`, `EVT.UNPACK`, `EVT.RD`, `EVT.YEAR` and the six `EVT.REF*` (R201 to R221).
-/

namespace Sys2Proof.Machine

/-- `unpack(b1..b8)` (R203, 30_encoding.md R90): `b8` takes no part. -/
def unpackRecord (b1 b2 b3 b4 b5 b6 b7 _b8 : Byte) : EventFields :=
  let hourMin := ((b3.toNat &&& 0x0F) <<< 8) ||| b4.toNat
  { ym := BitVec.ofNat 2 ((b1.toNat >>> 6) &&& 0x03)
    z := (b1.toNat >>> 5) &&& 0x01 == 1
    day := BitVec.ofNat 5 (b2.toNat &&& 0x1F)
    month := BitVec.ofNat 4 ((b3.toNat >>> 4) &&& 0x0F)
    hourMin := BitVec.ofNat 12 hourMin
    hour := BitVec.ofNat 7 (hourMin / 60)
    minute := BitVec.ofNat 6 (hourMin % 60)
    restore := (b5.toNat >>> 2) &&& 0x01 == 1
    partition := BitVec.ofNat 5 ((b5.toNat >>> 3) &&& 0x1F)
    code := BitVec.ofNat 10 (((b5.toNat &&& 0x03) <<< 8) ||| b6.toNat)
    source := b7 }

/-- `unpack(REC[0], .., REC[7])` (R204). -/
def unpackLoaded (m : Memory) : EventFields :=
  unpackRecord (m.read 0) (m.read 1) (m.read 2) (m.read 3) (m.read 4) (m.read 5) (m.read 6) (m.read 7)

/-- The unpacked month, day, hour and minute in a year, as the tuple the year rule compares (R211). -/
def EventFields.inYear (f : EventFields) (y : Nat) : DateTime :=
  ⟨y, f.month.toNat, f.day.toNat, f.hour.toNat, f.minute.toNat⟩

/-- The candidate year `base + year_marker`, or the reference's year when that gives no valid date and time
(R210, R211). -/
def candidateYear (f : EventFields) (ref : DateTime) : Nat :=
  let y := (ref.year - ref.year % 4) + f.ym.toNat
  if validDt (f.inYear y) then y else ref.year

/-- The year of `resolve_year` (R211): 4 less than the candidate, once, when that lies after the reference. -/
def resolvedYear (f : EventFields) (ref : DateTime) : Nat :=
  let y := candidateYear f ref
  if after (f.inYear y) ref then y - 4 else y

/-- `resolve_year` (R211): the year, and whether the final tuple is a valid date and time. -/
def resolveYear (f : EventFields) (ref : DateTime) : Nat × Bool :=
  (resolvedYear f ref, validDt (f.inYear (resolvedYear f ref)))

/-- `EVT.CLEAR` (R201). -/
def execEvtClear (s : State) : Host.Outcome State Fault Refusal :=
  respond .ok 0 [] (s.setEvt { s.evt with recCnt := 0, valid := false, yearValid := false })

/-- Load the next record byte: a ninth or later byte is dropped, the count saturates at 9 (R202). -/
def pushRecord (d : Byte) (u : EvtUnit) : EvtUnit :=
  { u with
    record := if u.recCnt < Config.recLen then u.record.write u.recCnt d else u.record
    recCnt := min (u.recCnt + 1) 9
    valid := false
    yearValid := false }

/-- `EVT.PUSH d` (R202). -/
def execEvtPush (d : Byte) (s : State) : Host.Outcome State Fault Refusal :=
  respond .ok 0 [] (s.setEvt (pushRecord d s.evt))

/-- `EVT.UNPACK` (R204): on a wrong length the field registers keep their values. -/
def execEvtUnpack (s : State) : Host.Outcome State Fault Refusal :=
  if s.evt.recCnt = Config.recLen then
    respond .ok 0 [] (s.setEvt { s.evt with fields := unpackLoaded s.evt.record, valid := true, yearValid := false })
  else
    respond .decodeFailure 0 [] (s.setEvt { s.evt with valid := false, yearValid := false })

/-- `EVT.RD d` (R206): `INDEX_ERROR` first, then `NOT_VALID`. -/
def execEvtRd (d : Byte) (s : State) : Host.Outcome State Fault Refusal :=
  match selectField s.evt d with
  | none => decline .indexError s
  | some (flag, value) => if flag then answer value s else decline .notValid s

/-- The year result latched (R215). -/
def latchYear (u : EvtUnit) : EvtUnit :=
  { u with
    yearValid := true
    year := BitVec.ofNat 16 (resolveYear u.fields u.ref.dateTime).1
    dateOk := (resolveYear u.fields u.ref.dateTime).2 }

/-- `EVT.YEAR` (R215): `NOT_VALID` first, then `REF_INVALID`; on either nothing is written. -/
def execEvtYear (s : State) : Host.Outcome State Fault Refusal :=
  if s.evt.valid then
    if s.evt.ref.legal then
      respond .ok ((latchYear s.evt).year.setWidth 32) [] (s.setEvt (latchYear s.evt))
    else decline .refInvalid s
  else decline .notValid s

/-- A write of the reference clears `YEAR_VALID` (R216 to R221). -/
def writeRef (r : Reference) (s : State) : Host.Outcome State Fault Refusal :=
  respond .ok 0 [] (s.setEvt { s.evt with ref := r, yearValid := false })

/-- `EVT.REFYH d` (R216). -/
def execEvtRefyh (d : Byte) (s : State) : Host.Outcome State Fault Refusal :=
  writeRef { s.evt.ref with year := yearWithHigh s.evt.ref.year d } s

/-- `EVT.REFYL d` (R217). -/
def execEvtRefyl (d : Byte) (s : State) : Host.Outcome State Fault Refusal :=
  writeRef { s.evt.ref with year := yearWithLow s.evt.ref.year d } s

/-- `EVT.REFMON d` (R218). -/
def execEvtRefmon (d : Byte) (s : State) : Host.Outcome State Fault Refusal :=
  writeRef { s.evt.ref with month := d } s

/-- `EVT.REFDAY d` (R219). -/
def execEvtRefday (d : Byte) (s : State) : Host.Outcome State Fault Refusal :=
  writeRef { s.evt.ref with day := d } s

/-- `EVT.REFHOUR d` (R220). -/
def execEvtRefhour (d : Byte) (s : State) : Host.Outcome State Fault Refusal :=
  writeRef { s.evt.ref with hour := d } s

/-- `EVT.REFMIN d` (R221). -/
def execEvtRefmin (d : Byte) (s : State) : Host.Outcome State Fault Refusal :=
  writeRef { s.evt.ref with minute := d } s

end Sys2Proof.Machine
end

