-- ==== Sys2Proof/Machine/FrameDecoder.lean ====
section
/-!
DEFINITION. Unit `DEC`: the scanner, the judging of a frame, the function `decode(buffer)` (42_frame_decoder.md R160 to
R163) and the meanings of `DEC.RESET`, `DEC.PUSH`, `DEC.RDCMD`, `DEC.RDLEN`, `DEC.RDPAY`, `DEC.RDSTAT` (R164 to R176).
-/

namespace Sys2Proof.Machine

/-- `append(u)` (R167): a byte beyond the capacity is dropped and remembered in `DEC_OVF`. -/
def appendByte (cap : Nat) (b : Byte) (u : DecUnit) : DecUnit :=
  if u.cnt < cap then { u with buf := u.buf.write u.cnt b, cnt := u.cnt + 1 } else { u with ovf := true }

/-- The two received checksum bytes equal the two output bytes of the checksum recomputed over the body (R170). -/
def checksumMatches (u : DecUnit) : Bool :=
  let a := checksum (u.buf.bytes (u.cnt - 2))
  crcHi a == u.buf.read (u.cnt - 2) && crcLo a == u.buf.read (u.cnt - 1)

/-- The verdict on a complete frame, in the order of R170: overflow, too short, checksum. Reading a byte of
`DEC_BUF` that does not exist is a fault (log entry 7). -/
def frameVerdict (cap : Nat) (u : DecUnit) : Except Fault Status :=
  if u.ovf then .ok .malformedOverflow
  else if u.cnt < 3 then .ok .malformedTooShort
  else if cap < u.cnt then .error (.noBufferByte (u.cnt - 1))
  else .ok (if checksumMatches u then .frameOk else .malformedChecksum)

/-- A completion: back to `HUNT`, `DEC_ERR` records the status, `DEC_VALID` is set by `FRAME_OK` alone (R170, R171). -/
def completeFrame (st : Status) (u : DecUnit) : DecUnit :=
  { u with st := .hunt, err := st.code, valid := u.valid || st == .frameOk }

/-- The payload length on `FRAME_OK`, else 0 (R164). -/
def completionRes (st : Status) (u : DecUnit) : Res :=
  if st = .frameOk then BitVec.ofNat 32 (payloadLength u) else 0

/-- A recognised start delimiter discards the previous frame's result; `DEC_ERR` is kept (R166). -/
def openFrame (u : DecUnit) : DecUnit := { u with st := .body, cnt := 0, ovf := false, valid := false }

/-- `DEC.PUSH d` in `HUNT` (R165). -/
def pushHunt (d : Byte) (u : DecUnit) : DecUnit := if d = Config.flag then { u with st := .huntFe } else u

/-- `DEC.PUSH d` in `HUNT_FE` (R166). -/
def pushHuntFe (d : Byte) (u : DecUnit) : DecUnit := if d = Config.flag then openFrame u else { u with st := .hunt }

/-- `DEC.PUSH d` in `BODY` (R168). -/
def pushBody (cap : Nat) (d : Byte) (u : DecUnit) : DecUnit :=
  if d = Config.flag then { u with st := .bodyFe } else appendByte cap d u

/-- The escape pair `FE F0` (R169). -/
def pushEscape (cap : Nat) (u : DecUnit) : DecUnit := { appendByte cap Config.flag u with st := .body }

/-- A `DEC.PUSH` after which no frame has ended (R271). -/
def needMore (u : DecUnit) : Except Fault (DecUnit × Status × Res) := .ok (u, .needMore, 0)

/-- A `DEC.PUSH` that ends a frame with a status. -/
def complete (st : Status) (u : DecUnit) : Except Fault (DecUnit × Status × Res) :=
  .ok (completeFrame st u, st, completionRes st u)

/-- The end delimiter `FE 0D` (R170). -/
def endFrame (cap : Nat) (u : DecUnit) : Except Fault (DecUnit × Status × Res) :=
  match frameVerdict cap u with
  | .ok st => complete st u
  | .error f => .error f

/-- `DEC.PUSH d` on the decoder's own registers: the new registers, the status and `res` (R164). -/
def pushByte (cap : Nat) (d : Byte) (u : DecUnit) : Except Fault (DecUnit × Status × Res) :=
  match u.st with
  | .hunt => needMore (pushHunt d u)
  | .huntFe => needMore (pushHuntFe d u)
  | .body => needMore (pushBody cap d u)
  | .bodyFe =>
    if d = Config.esc1 then needMore (pushEscape cap u)
    else if d = Config.ed1 then endFrame cap u
    else complete .malformedBadEscape u

/-- What `DEC.RESET` leaves: `DEC_BUF` keeps its bytes (R172). -/
def forgetFrame (u : DecUnit) : DecUnit :=
  { u with st := .hunt, cnt := 0, ovf := false, valid := false, err := 0x00 }

/-- `DEC.RESET` (R172). -/
def execDecReset (s : State) : Host.Outcome State Fault Refusal := respond .ok 0 [] (s.setDec (forgetFrame s.dec))

/-- `DEC.PUSH d` (R164 to R171). -/
def execDecPush (d : Byte) (s : State) : Host.Outcome State Fault Refusal :=
  match pushByte s.cfg.decCap d s.dec with
  | .ok (u, st, res) => respond st res [] (s.setDec u)
  | .error f => .fault f

/-- A byte of the decoded frame as an answer. -/
def answerBufferByte (i : Nat) (s : State) : Host.Outcome State Fault Refusal :=
  match bufferByte s.cfg.decCap s.dec i with
  | .ok b => answer (zextByte b) s
  | .error f => .fault f

/-- `DEC.RDCMD` (R173). -/
def execDecRdcmd (s : State) : Host.Outcome State Fault Refusal :=
  if s.dec.valid then answerBufferByte 0 s else decline .notValid s

/-- `DEC.RDLEN` (R174). -/
def execDecRdlen (s : State) : Host.Outcome State Fault Refusal :=
  if s.dec.valid then answer (BitVec.ofNat 32 (payloadLength s.dec)) s else decline .notValid s

/-- `DEC.RDPAY d` (R175): `NOT_VALID` first, then `INDEX_ERROR`. -/
def execDecRdpay (d : Byte) (s : State) : Host.Outcome State Fault Refusal :=
  if s.dec.valid then
    if payloadLength s.dec ≤ d.toNat then decline .indexError s else answerBufferByte (1 + d.toNat) s
  else decline .notValid s

/-- `DEC.RDSTAT` (R176). -/
def execDecRdstat (s : State) : Host.Outcome State Fault Refusal := answer (statusWord s.dec) s

/-- The outcome of `decode(buffer)` (R160, R163). -/
inductive DecodeResult where
  | frame (command : Byte) (payload : List Byte)
  | needMoreData
  | malformed (reason : Status)
deriving DecidableEq, Repr

/-- The frame a decoder holds after `FRAME_OK`: `DEC_BUF[0]` and `DEC_BUF[1 .. DEC_CNT-3]` (R162, 10_state.md R26). -/
def heldFrame (u : DecUnit) : DecodeResult :=
  .frame (u.buf.read 0) ((List.range (payloadLength u)).map fun i => u.buf.read (1 + i))

/-- Push the bytes one by one and stop at the first completion (R162). -/
def scanBytes (cap : Nat) : List Byte → DecUnit → Except Fault DecodeResult
  | [], _ => .ok .needMoreData
  | d :: rest, u =>
    match pushByte cap d u with
    | .error f => .error f
    | .ok (u', st, _) =>
      if st = .needMore then scanBytes cap rest u'
      else if st = .frameOk then .ok (heldFrame u')
      else .ok (.malformed st)

/-- `decode(buffer)` on a decoder whose registers are `u`: from the state `DEC.RESET` leaves (R162). -/
def decodeBuffer (cap : Nat) (u : DecUnit) (buffer : List Byte) : Except Fault DecodeResult :=
  scanBytes cap buffer (forgetFrame u)

end Sys2Proof.Machine
end

