-- ==== Sys2Proof/Machine/FrameEncoder.lean ====
section
/-!
DEFINITION. Unit `ENC`: the frame function `encode(command, payload)` (41_frame_encoder.md R140) and the meanings of
`ENC.START`, `ENC.BYTE`, `ENC.END` (R143 to R145).
-/

namespace Sys2Proof.Machine

/-- The body with its two checksum bytes, high byte first (41_frame_encoder.md R140, 20_memory.md R63). -/
def withChecksum (body : List Byte) : List Byte := body ++ [crcHi (checksum body), crcLo (checksum body)]

/-- `encode(command, payload)`, the wire frame (41_frame_encoder.md R140, 30_encoding.md R83). -/
def encodeFrame (command : Byte) (payload : List Byte) : List Byte :=
  startDelimiter ++ escapeAll (withChecksum (command :: payload)) ++ endDelimiter

/-- `ENC.START d` (R143). -/
def execEncStart (d : Byte) (s : State) : Host.Outcome State Fault Refusal :=
  match s.enc.st with
  | .idle => respond .ok 0 (startDelimiter ++ esc d) (s.setEnc ⟨.body, accStep accInit d⟩)
  | .body => decline .seqError s

/-- `ENC.BYTE d` (R144). -/
def execEncByte (d : Byte) (s : State) : Host.Outcome State Fault Refusal :=
  match s.enc.st with
  | .idle => decline .seqError s
  | .body => respond .ok 0 (esc d) (s.setEnc ⟨.body, accStep s.enc.acc d⟩)

/-- `ENC.END` (R145): `ENC_ACC` keeps its value. -/
def execEncEnd (s : State) : Host.Outcome State Fault Refusal :=
  match s.enc.st with
  | .idle => decline .seqError s
  | .body =>
    respond .ok 0 (esc (crcHi s.enc.acc.toNat) ++ esc (crcLo s.enc.acc.toNat) ++ endDelimiter)
      (s.setEnc ⟨.idle, s.enc.acc⟩)

end Sys2Proof.Machine
end

