-- ==== Sys2Proof/Machine/System.lean ====
section
/-!
DEFINITION. The system operation `SYS.RESET` (70_reset_and_hazards.md R300).
-/

namespace Sys2Proof.Machine

/-- `SYS.RESET` (R300): every register and buffer takes its reset value, then `respond(OK, 0, [])`. -/
def execSysReset (s : State) : Host.Outcome State Fault Refusal := respond .ok 0 [] (resetUnits s)

end Sys2Proof.Machine
end

