-- ==== Sys2Proof/Machine/Dispatch.lean ====
section
/-!
DEFINITION. What each operation does: one arm per constructor of `Instr`, one meaning per arm.
-/

namespace Sys2Proof.Machine

def exec (i : Instr) (s : State) : Host.Outcome State Fault Refusal :=
  match i with
  | .csInit => Sys2Proof.Machine.execCsInit s
  | .csByte d => Sys2Proof.Machine.execCsByte d s
  | .csRdhi => Sys2Proof.Machine.execCsRdhi s
  | .csRdlo => Sys2Proof.Machine.execCsRdlo s
  | .csRdacc => Sys2Proof.Machine.execCsRdacc s
  | .encStart d => Sys2Proof.Machine.execEncStart d s
  | .encByte d => Sys2Proof.Machine.execEncByte d s
  | .encEnd => Sys2Proof.Machine.execEncEnd s
  | .decReset => Sys2Proof.Machine.execDecReset s
  | .decPush d => Sys2Proof.Machine.execDecPush d s
  | .decRdcmd => Sys2Proof.Machine.execDecRdcmd s
  | .decRdlen => Sys2Proof.Machine.execDecRdlen s
  | .decRdpay d => Sys2Proof.Machine.execDecRdpay d s
  | .decRdstat => Sys2Proof.Machine.execDecRdstat s
  | .evtClear => Sys2Proof.Machine.execEvtClear s
  | .evtPush d => Sys2Proof.Machine.execEvtPush d s
  | .evtUnpack => Sys2Proof.Machine.execEvtUnpack s
  | .evtRd d => Sys2Proof.Machine.execEvtRd d s
  | .evtYear => Sys2Proof.Machine.execEvtYear s
  | .evtRefyh d => Sys2Proof.Machine.execEvtRefyh d s
  | .evtRefyl d => Sys2Proof.Machine.execEvtRefyl d s
  | .evtRefmon d => Sys2Proof.Machine.execEvtRefmon d s
  | .evtRefday d => Sys2Proof.Machine.execEvtRefday d s
  | .evtRefhour d => Sys2Proof.Machine.execEvtRefhour d s
  | .evtRefmin d => Sys2Proof.Machine.execEvtRefmin d s
  | .sysReset => Sys2Proof.Machine.execSysReset s

end Sys2Proof.Machine
end

