-- ==== Sys2Proof/Machine/Step.lean ====
section
/-!
DEFINITION. One step of the machine: the block takes the next thing the host presents and executes it to completion
(10_state.md R33, 20_memory.md R70). It fetches nothing (R73): the word stands on its port.
-/

namespace Sys2Proof.Machine

/-- One command word executed (30_encoding.md R80, R96). -/
def runCommand (cw : CmdWord) (s : State) : Host.Outcome State Fault Refusal :=
  match decode cw with
  | .ok i => exec i s
  | .error _ => illegalOp s

/-- One step: with nothing presented the block waits and nothing changes (70_reset_and_hazards.md R301; log entry 1);
a command word is taken and executed; the reset input resets (R300). -/
def step (s : State) : Host.Outcome State Fault Refusal :=
  match s.inputs with
  | [] => .next s
  | .command cw :: rest => runCommand cw { s with inputs := rest }
  | .rst :: rest => .next (resetInput { s with inputs := rest })

/-- The host presents one command word before anything else it has in store, so that the very next step runs it (log
entry 1). A number that is no 16-bit word presents nothing. -/
def State.withFetchWord (s : State) (nbits w : Nat) : State :=
  match tableWord nbits w with
  | some cw => { s with inputs := .command cw :: s.inputs }
  | none => s

end Sys2Proof.Machine
end

