-- ==== Sys2Proof/Machine/Programs.lean ====
section
/-!
DEFINITION. Sequences of operations: running them one after the other (20_memory.md R70), the pseudo-operations and the
written form of 30_encoding.md R97 and R98.
-/

namespace Sys2Proof.Machine

/-- Run operations in order. The first component lists the responses given, in order; the second says how the run
ended. -/
def runOps : List Instr → State → List Response × Host.Outcome State Fault Refusal
  | [], s => ([], .next s)
  | i :: is, s =>
    match exec i s with
    | .next t => (t.rsp.toList ++ (runOps is t).1, (runOps is t).2)
    | .fault f => ([], .fault f)
    | .refused r => ([], .refused r)

/-- `CS.SUM b0 .. bk` (30_encoding.md R98). -/
def csSum (bytes : List Byte) : List Instr := .csInit :: bytes.map .csByte

/-- `ENC.FRAME c, p0 .. pk` (30_encoding.md R98). -/
def encFrame (command : Byte) (payload : List Byte) : List Instr :=
  .encStart command :: payload.map .encByte ++ [.encEnd]

/-- `DEC.FEED r0 .. rk` (30_encoding.md R98). -/
def decFeed (received : List Byte) : List Instr := received.map .decPush

/-- `EVT.LOAD b1 .. bk` (30_encoding.md R98). -/
def evtLoad (bytes : List Byte) : List Instr := .evtClear :: bytes.map .evtPush

/-- `EVT.SETREF Y-M-D h:m` (30_encoding.md R98): the year goes in as `Y >> 8` and `Y & 0xFF`. -/
def evtSetRef (r : Reference) : List Instr :=
  [.evtRefyh (r.year.extractLsb' 8 8), .evtRefyl (r.year.extractLsb' 0 8), .evtRefmon r.month,
   .evtRefday r.day, .evtRefhour r.hour, .evtRefmin r.minute]

/-- The operand of an operation, if it takes one (30_encoding.md R94). -/
def operandOf : Instr → Option Byte
  | .csByte d | .encStart d | .encByte d | .decPush d | .decRdpay d | .evtPush d | .evtRd d
  | .evtRefyh d | .evtRefyl d | .evtRefmon d | .evtRefday d | .evtRefhour d | .evtRefmin d => some d
  | .csInit | .csRdhi | .csRdlo | .csRdacc | .encEnd | .decReset | .decRdcmd | .decRdlen | .decRdstat
  | .evtClear | .evtUnpack | .evtYear | .sysReset => none

/-- One hexadecimal digit, capital letters. -/
def hexDigit (n : Nat) : String := String.singleton ("0123456789ABCDEF".toList.getD n '?')

/-- The written form of an operation (30_encoding.md R97): the mnemonic, then the operand as a hexadecimal byte. -/
def writtenForm (i : Instr) : String :=
  match operandOf i with
  | none => i.mnemonic
  | some d => i.mnemonic ++ " 0x" ++ hexDigit (d.toNat / 16) ++ hexDigit (d.toNat % 16)

end Sys2Proof.Machine
end

