-- ==== Sys2Proof/Machine/Controller.lean ====
section
/-!
DEFINITION. The host that drives the block: the Log Retrieval Controller of 44_host_controller.md. It is software outside
the block (00_scope.md R5) and adds nothing to the state; it is written here over the block's own meanings so that its
rules are modelled too (log entry 10). The transport and the wall clock are outside it (R252): what they deliver comes in
as a list of exchanges.
-/

namespace Sys2Proof.Machine

/-- The two log classes (R242, R243). -/
inductive LogClass where
  | standard
  | grade2
deriving DecidableEq, Repr

/-- The classes a retrieval asks for: a set, so without order or repeats (R254). -/
structure ClassSet where
  standard : Bool
  grade2 : Bool
deriving DecidableEq, Repr

/-- The classes in the order they are run: `Standard` first (R243, R256). -/
def ClassSet.inOrder (c : ClassSet) : List LogClass :=
  (if c.standard then [.standard] else []) ++ (if c.grade2 then [.grade2] else [])

/-- A log cursor: an opaque 3-byte value (R242). -/
structure Cursor where
  c0 : Byte
  c1 : Byte
  c2 : Byte
deriving DecidableEq, Repr

/-- The class-specific initial cursor (R242). -/
def initialCursor : LogClass → Cursor
  | .standard => ⟨0xFF, 0xFF, 0xFF⟩
  | .grade2 => ⟨0x00, 0xFF, 0xFF⟩

def Cursor.bytes (c : Cursor) : List Byte := [c.c0, c.c1, c.c2]

/-- An event as the host reads it through `EVT.RD` (43_event_unpacker.md R200, R206). -/
structure Event where
  year : Res
  month : Res
  day : Res
  hour : Res
  minute : Res
  code : Res
  source : Res
  partition : Res
  restore : Res
  continuation : Res
deriving DecidableEq, Repr

/-- What transport and clock deliver for one request: the bytes received before the request-level timeout, and the time
the host takes as `reference_now` (R245, R251; 92_eei_decisions.md D36). -/
structure Exchange where
  received : List Byte
  now : Reference
deriving DecidableEq, Repr

/-- Why a class's loop stops (R244 to R248, R255): the host's diagnostic path, in which a malformed frame, a decode failure
and a clean end of log stay apart (R255, R257). -/
inductive ClassEnd where
  /-- The overall record limit was reached (R244): a stop of the whole run. -/
  | limitReached
  /-- No completion before the request-level timeout (R245). -/
  | timedOut
  /-- The decoder reported a malformed frame, with its status code (R245). -/
  | malformed (code : BitVec 8)
  /-- Wrong command byte, or a payload too short for record and cursor (R246, R249; 92_eei_decisions.md D28). -/
  | truncated
  /-- The record failed to decode: terminal like an end of log, but told apart from it (R247, R255, R257). -/
  | decodeFailure
  /-- The class's end-of-log marker was zero: `b1` for `Grade2`, the continuation flag for `Standard` (R247). -/
  | endOfLog
deriving DecidableEq, Repr

/-- One operation and its response; `none` if the block stopped. Nothing here looks at the status: a caller that passes over
a host error goes on with the `res` of 0 that came with it (DESIGN CHOICE, log entry 11). -/
def perform (i : Instr) (s : State) : Option (State × Response) :=
  match exec i s with
  | .next t => t.rsp.map fun r => (t, r)
  | .fault _ => none
  | .refused _ => none

/-- Operations in order, the responses in order. -/
def performAll : List Instr → State → Option (State × List Response)
  | [], s => some (s, [])
  | i :: is, s => do
    let (s, r) ← perform i s
    let (s, rs) ← performAll is s
    return (s, r :: rs)

/-- The request: the read-event-log command with the cursor as payload (R245, R251; 30_encoding.md R88), then a fresh
decoder. If a frame is already open, `ENC.START` answers `SEQ_ERROR` and the host goes on (DESIGN CHOICE, log entry 11). -/
def requestOps (cur : Cursor) : List Instr := encFrame Config.readEventCmd cur.bytes ++ [.decReset]

/-- Push received bytes until a completion; its status code, or none when the bytes run out first (R251). -/
def receive : List Byte → State → Option (State × Option (BitVec 8))
  | [], s => some (s, none)
  | d :: rest, s => do
    let (s, r) ← perform (.decPush d) s
    if r.status = Status.needMore.code then receive rest s else return (s, some r.status)

/-- Payload indices as read operations. -/
def readPayloadOps (indices : List Nat) : List Instr := indices.map fun i => .decRdpay (BitVec.ofNat 8 i)

/-- A read byte as an operand. -/
def resByte (r : Response) : Byte := r.res.setWidth 8

/-- The selectors of the fields of an event, in the order of `eventOf` (43_event_unpacker.md R206). -/
def eventSelectors : List Byte := [0x0B, 0x03, 0x02, 0x05, 0x06, 0x09, 0x0A, 0x08, 0x07, 0x01]

/-- The event made of the ten answers to `eventSelectors`. -/
def eventOf (rs : List Response) : Option Event :=
  match rs.map Response.res with
  | [y, mo, d, h, mi, c, so, p, re, z] => some ⟨y, mo, d, h, mi, c, so, p, re, z⟩
  | _ => none

/-- The cursor made of three answers (R249). -/
def cursorOf (rs : List Response) : Option Cursor :=
  match rs.map resByte with
  | [a, b, c] => some ⟨a, b, c⟩
  | _ => none

/-- The selector the end-of-log test of a class reads: the raw first record byte for `Grade2`, the continuation flag for
`Standard` (R247). -/
def endMarker : LogClass → Byte
  | .grade2 => 0x0D
  | .standard => 0x01

/-- Whether a record ends its class's log, and how (R247, R257): it failed to decode, or the class's marker is zero. R247
names the decode failure for `Standard`; R255 treats it the same for any other class, and there the marker read after it is
0 as well (`EVT.RD` answers `NOT_VALID` with `res` 0). -/
def recordEnd (unpackStatus : BitVec 8) (marker : Res) : Option ClassEnd :=
  if unpackStatus = Status.decodeFailure.code then some .decodeFailure
  else if marker = 0 then some .endOfLog
  else none

/-- Move payload bytes into the record loader, one after the other (R251). -/
def loadRecord : List Nat → State → Option State
  | [], s => some s
  | i :: rest, s => do
    let (s, r) ← perform (.decRdpay (BitVec.ofNat 8 i)) s
    let (s, _) ← perform (.evtPush (resByte r)) s
    loadRecord rest s

/-- What one iteration gives: an event and the next cursor, or the end of the class's loop. -/
inductive Iteration where
  | event (e : Event) (next : Cursor)
  | stop (why : ClassEnd)
deriving DecidableEq, Repr

/-- Unpack the record of the decoded frame, test for the end of the log, and take event and cursor (R247 to R249, R251).
A correct host presents a legal reference (60_exceptions.md R272). If `now` is not one, `EVT.YEAR` answers `REF_INVALID`; the
spec does not say what the host does then, and this one appends the event with year 0, the `res` of the `NOT_VALID` answer to
`EVT.RD 0x0B` (DESIGN CHOICE, log entry 11). -/
def takeRecord (cls : LogClass) (now : Reference) (s : State) : Option (State × Iteration) := do
  let (s, _) ← perform .evtClear s
  let s ← loadRecord [0, 1, 2, 3, 4, 5, 6, 7] s
  let (s, unpacked) ← perform .evtUnpack s
  let (s, _) ← performAll (evtSetRef now ++ [.evtYear]) s
  let (s, marker) ← perform (.evtRd (endMarker cls)) s
  match recordEnd unpacked.status marker.res with
  | some why => return (s, .stop why)
  | none =>
    let (s, fields) ← performAll (eventSelectors.map .evtRd) s
    let (s, cursor) ← performAll (readPayloadOps [8, 9, 10]) s
    let e ← eventOf fields
    let c ← cursorOf cursor
    return (s, .event e c)

/-- A decoded frame must carry the expected command byte and a payload that holds record and cursor (R246, R249). -/
def takeFrame (cls : LogClass) (now : Reference) (s : State) : Option (State × Iteration) := do
  let (s, command) ← perform .decRdcmd s
  let (s, length) ← perform .decRdlen s
  if command.res = zextByte Config.readEventCmd ∧ Config.recLen + Config.cursorLen ≤ length.res.toNat
  then takeRecord cls now s
  else return (s, .stop .truncated)

/-- One iteration: send the request, receive, judge (R245 to R249, R251). There is no retry (R245, R255). -/
def iterate (cls : LogClass) (cur : Cursor) (x : Exchange) (s : State) : Option (State × Iteration) := do
  let (s, _) ← performAll (requestOps cur) s
  let (s, completion) ← receive x.received s
  match completion with
  | none => return (s, .stop .timedOut)
  | some code =>
    if code = Status.frameOk.code then takeFrame cls x.now s else return (s, .stop (.malformed code))

/-- What a class's loop leaves: the block, the events accumulated so far (of all classes), the exchanges not used, and
why it stopped. -/
structure ClassResult where
  block : State
  events : List Event
  rest : List Exchange
  why : ClassEnd
deriving DecidableEq, Repr

/-- The record limit is set and reached (R244). -/
def limitHit (limit : Option Nat) (events : List Event) : Bool :=
  match limit with
  | none => false
  | some n => decide (n ≤ events.length)

/-- The loop of one class (R243 to R250): the limit is tested at the top of every iteration (90_conflicts.md C3); a
transport with nothing more to deliver times out. -/
def classLoop (cls : LogClass) (limit : Option Nat) :
    List Exchange → Cursor → List Event → State → Option ClassResult
  | xs, cur, events, s =>
    if limitHit limit events then some ⟨s, events, xs, .limitReached⟩
    else
      match xs with
      | [] => (performAll (requestOps cur) s).map fun r => ⟨r.1, events, [], .timedOut⟩
      | x :: rest =>
        match iterate cls cur x s with
        | none => none
        | some (s, .stop why) => some ⟨s, events, rest, why⟩
        | some (s, .event e next) => classLoop cls limit rest next (events ++ [e]) s

/-- What a run leaves: the block, the events of all classes, and the diagnostic log of how each class that was run ended
(R255, R257). -/
structure RunResult where
  block : State
  events : List Event
  ends : List (LogClass × ClassEnd)
deriving DecidableEq, Repr

/-- Classes one after the other: events of earlier classes come first and are kept whatever ends a later class (R243, R255,
R256); the limit stops the whole run (R244). -/
def runClasses (limit : Option Nat) : List LogClass → List Exchange → List Event → State → Option RunResult
  | [], _, events, s => some ⟨s, events, []⟩
  | cls :: classes, xs, events, s =>
    match classLoop cls limit xs (initialCursor cls) events s with
    | none => none
    | some r =>
      if r.why = .limitReached then some ⟨r.block, r.events, [(cls, r.why)]⟩
      else (runClasses limit classes r.rest r.events r.block).map fun t => { t with ends := (cls, r.why) :: t.ends }

/-- `retrieve_logs(classes, limit)` over a connection that stands (R254). -/
def retrieveLogs (limit : Option Nat) (classes : ClassSet) (xs : List Exchange) (s : State) : Option RunResult :=
  runClasses limit classes.inOrder xs [] s

/-- What the caller of the retrieval sees (R254, R255). -/
inductive Retrieval where
  /-- The transport did not connect: fatal to the whole run, no events. -/
  | connectionFailure
  /-- The events, and the classes that timed out: the partial-result condition of R255. A malformed frame is not told apart
  from a clean end of log here (R255). -/
  | result (events : List Event) (timedOut : List LogClass)
deriving DecidableEq, Repr

/-- The classes whose loop ended in a request timeout (R255). -/
def RunResult.timedOut (r : RunResult) : List LogClass :=
  (r.ends.filter fun e => e.2 = .timedOut).map Prod.fst

/-- The caller's view of a run (R254, R255). -/
def RunResult.visible (r : RunResult) : Retrieval := .result r.events r.timedOut

/-- The whole retrieval: one connection, then the requested classes (R252, R254, R255). -/
def retrievalRun (connected : Bool) (limit : Option Nat) (classes : ClassSet) (xs : List Exchange) (s : State) :
    Option Retrieval :=
  if connected then (retrieveLogs limit classes xs s).map RunResult.visible else some .connectionFailure

end Sys2Proof.Machine
end

