-- ==== Sys2Proof/Safety.lean ====
section
/-!
DEFINITION. What counts as a safe state and a safe step: the invariant of 10_state.md R31 with the form of the block's
byte buffers, and the coherence of the latched results. Claims are stated in these terms.
-/

namespace Sys2Proof.Machine

/-- A held frame (10_state.md R31 item c). -/
structure HeldFrame (cap : Nat) (u : DecUnit) : Prop where
  hunting : u.st = .hunt ∨ u.st = .huntFe
  noOverflow : u.ovf = false
  atLeastThree : 3 ≤ u.cnt
  fits : u.cnt ≤ cap
  recorded : u.err = 0x02
  highByte : u.buf.read (u.cnt - 2) = crcHi (checksum (u.buf.bytes (u.cnt - 2)))
  lowByte : u.buf.read (u.cnt - 1) = crcLo (checksum (u.buf.bytes (u.cnt - 2)))

/-- The invariant: 10_state.md R31 items a to d, the constraint on `DEC_CAP` (00_scope.md R10), and the canonical form
and size of the two buffers (20_memory.md R60). -/
structure Inv (s : State) : Prop where
  capacity : s.cfg.wf
  csAcc : s.cs.acc.toNat ≤ 0x101FD
  encAcc : s.enc.acc.toNat ≤ 0x101FD
  yearNeedsEvent : s.evt.yearValid = true → s.evt.valid = true
  eventNeedsEight : s.evt.valid = true → s.evt.recCnt = 8
  heldFrame : s.dec.valid = true → HeldFrame s.cfg.decCap s.dec
  decCount : s.dec.cnt ≤ s.cfg.decCap
  recCount : s.evt.recCnt ≤ 9
  bufForm : s.dec.buf.wf = true
  bufSize : s.dec.buf.within s.cfg.decCap = true
  recForm : s.evt.record.wf = true
  recSize : s.evt.record.within Config.recLen = true

/-- The latched results are those of the registers they were computed from: a read can never mix two records
(92_eei_decisions.md D16), `F_YEAR` belongs to the fields and the reference now held (43_event_unpacker.md R215 to
R221), `DEC_OVF` means a full buffer and `DEC_ERR` holds a completion's code or `0x00` (10_state.md R25). -/
structure Coherent (s : State) : Prop where
  fields : s.evt.valid = true → s.evt.fields = unpackLoaded s.evt.record
  reference : s.evt.yearValid = true → s.evt.ref.legal = true
  year : s.evt.yearValid = true → s.evt.year.toNat = resolvedYear s.evt.fields s.evt.ref.dateTime
  dateOk : s.evt.yearValid = true → s.evt.dateOk = validDt (s.evt.fields.inYear s.evt.year.toNat)
  overflow : s.dec.ovf = true → s.dec.cnt = s.cfg.decCap
  lastCompletion : s.dec.err ∈ [0x00#8, 0x02#8, 0x10#8, 0x11#8, 0x12#8, 0x13#8]

/-- A safe step: the machine goes on, and to a state that meets the invariant. -/
def SafeStep (s : State) : Prop := ∃ t, step s = .next t ∧ Inv t

/-- The registers of 10_state.md R20 and the parameter are the same; ports may differ. -/
structure SameRegisters (s t : State) : Prop where
  cfg : t.cfg = s.cfg
  cs : t.cs = s.cs
  enc : t.enc = s.enc
  dec : t.dec = s.dec
  evt : t.evt = s.evt

/-- Every register of 10_state.md R20 holds its reset value of R38. -/
structure ResetValues (t : State) : Prop where
  csAcc : t.cs.acc = 0x0000147A
  encSt : t.enc.st = .idle
  encAcc : t.enc.acc = 0x0000147A
  decSt : t.dec.st = .hunt
  decCnt : t.dec.cnt = 0
  decBuf : ∀ i, t.dec.buf.read i = 0x00
  decOvf : t.dec.ovf = false
  decValid : t.dec.valid = false
  decErr : t.dec.err = 0x00
  recCnt : t.evt.recCnt = 0
  record : ∀ i, t.evt.record.read i = 0x00
  evtValid : t.evt.valid = false
  yearValid : t.evt.yearValid = false
  dateOk : t.evt.dateOk = false
  fields : t.evt.fields = ⟨0, false, 0, 0, 0, 0, 0, false, 0, 0, 0⟩
  year : t.evt.year = 0
  ref : t.evt.ref = ⟨0, 0, 0, 0, 0⟩

/-- The registers of one unit are the same (20_memory.md R71); for the system operation, those of every unit. -/
def SameUnit (u : OpUnit) (s t : State) : Prop :=
  match u with
  | .cs => t.cs = s.cs
  | .enc => t.enc = s.enc
  | .dec => t.dec = s.dec
  | .evt => t.evt = s.evt
  | .sys => t.cs = s.cs ∧ t.enc = s.enc ∧ t.dec = s.dec ∧ t.evt = s.evt

/-- An operation writes the registers of a unit only if it belongs to it or is `SYS.RESET` (20_memory.md R71). -/
def concerns (u : OpUnit) (i : Instr) : Bool := i.unit == u || i.unit == .sys

/-- Noise before a frame: no two adjacent `0xFE` and none at the end (42_frame_decoder.md R178). -/
def quiet (g : List Byte) : Prop :=
  (∀ i : Nat, g[i]? = some 0xFE#8 → g[i + 1]? ≠ some 0xFE#8) ∧ g.getLast? ≠ some 0xFE#8

/-- Two buffers agree on their first `n` bytes. -/
def agreeBelow (n : Nat) (m m' : Memory) : Prop := ∀ i, i < n → m.read i = m'.read i

/-- Two states that differ at most in what no operation can show (10_state.md R31 item e, 20_memory.md R61, R62): buffer
bytes beyond those written since the buffer was last emptied, field registers while `EVT_VALID = 0`, the year result
while `YEAR_VALID = 0`. -/
structure SameVisible (s t : State) : Prop where
  cfg : t.cfg = s.cfg
  cs : t.cs = s.cs
  enc : t.enc = s.enc
  decSt : t.dec.st = s.dec.st
  decCnt : t.dec.cnt = s.dec.cnt
  decOvf : t.dec.ovf = s.dec.ovf
  decValid : t.dec.valid = s.dec.valid
  decErr : t.dec.err = s.dec.err
  decBuf : agreeBelow s.dec.cnt s.dec.buf t.dec.buf
  recCnt : t.evt.recCnt = s.evt.recCnt
  record : agreeBelow (min s.evt.recCnt 8) s.evt.record t.evt.record
  evtValid : t.evt.valid = s.evt.valid
  fields : s.evt.valid = true → t.evt.fields = s.evt.fields
  ref : t.evt.ref = s.evt.ref
  yearValid : t.evt.yearValid = s.evt.yearValid
  year : s.evt.yearValid = true → t.evt.year = s.evt.year
  dateOk : s.evt.yearValid = true → t.evt.dateOk = s.evt.dateOk
  inputs : t.inputs = s.inputs
  rsp : t.rsp = s.rsp
  txLog : t.txLog = s.txLog

end Sys2Proof.Machine
end

