-- ==== Sys2Proof/Certificates/Slice0/Obligations.lean ====
section
/-!
DEFINITION. The statements for the provers. Each docstring says which rule of spec/ it formalises; where a clause is the
model's choice it names the log entry. Responses are written out as `⟨status, res, tx⟩` with the codes of
60_exceptions.md R271.
-/

open Sys2Proof Sys2Proof.Machine

/-! ### Encoding and the step -/

/-- Decoding the encoding of an operation gives it back, with every operand at every value; and a word that decodes is
the encoding of what it decodes to (30_encoding.md R92 to R95). -/
def Obligations.InstructionWordsRoundTrip : Prop :=
  (∀ i : Instr, decode (encode i) = .ok i) ∧
  (∀ (cw : CmdWord) (i : Instr), decode cw = .ok i → encode i = cw)

/-- The decoder takes exactly the words that a row of spec/opcode_table.json covers, each as the row's operation, and no
word lies in two rows (30_encoding.md R94). -/
def Obligations.DecoderAgreesWithOpcodeTable : Prop :=
  (∀ cw : CmdWord, (∃ i, decode cw = .ok i) ↔ ∃ r ∈ opTable, cw &&& r.mask = r.pattern) ∧
  (∀ (cw : CmdWord) (i : Instr), decode cw = .ok i →
    ∃ r ∈ opTable, r.mnemonic = i.mnemonic ∧ cw &&& r.mask = r.pattern) ∧
  (∀ (cw : CmdWord), ∀ r ∈ opTable, ∀ r' ∈ opTable,
    cw &&& r.mask = r.pattern → cw &&& r'.mask = r'.pattern → r = r')

/-- Words written out from 30_encoding.md R94 and R97 decode to the operations they stand for; words of R96 to none. -/
def Obligations.WrittenOutWordsDecode : Prop :=
  decode 0x1000 = .ok .csInit ∧ decode 0x118C = .ok (.csByte 0x8C) ∧ decode 0x20FE = .ok (.encStart 0xFE) ∧
  decode 0x2200 = .ok .encEnd ∧ decode 0x310D = .ok (.decPush 0x0D) ∧ decode 0x340A = .ok (.decRdpay 0x0A) ∧
  decode 0x4200 = .ok .evtUnpack ∧ decode 0x430F = .ok (.evtRd 0x0F) ∧ decode 0x49E8 = .ok (.evtRefyl 0xE8) ∧
  decode 0xF000 = .ok .sysReset ∧
  (decode 0x1001).toOption = none ∧ (decode 0x4500).toOption = none ∧ (decode 0x0000).toOption = none

/-- A step takes the presented word and is `exec` of what it decodes to (30_encoding.md R80, 20_memory.md R70); so is
the step after `withFetchWord`. With nothing presented the step waits: the model's choice (log entry 1). -/
def Obligations.StepRunsThePresentedCommand : Prop :=
  (∀ (s : State) (rest : List Input) (cw : CmdWord) (i : Instr),
    s.inputs = .command cw :: rest → decode cw = .ok i → step s = exec i { s with inputs := rest }) ∧
  (∀ (s : State) (i : Instr), step (s.withFetchWord 16 (encode i).toNat) = exec i s) ∧
  (∀ s : State, s.inputs = [] → step s = .next s)

/-- 30_encoding.md R96 (with R95): a word whose `op` is outside the table, or whose `op` takes no operand while `d ≠ 0x00`,
answers `ILLEGAL_OP` and changes no state; every other word is an operation. -/
def Obligations.IllegalWordsAnswerIllegalOp : Prop :=
  ∀ (cw : CmdWord) (op d : Byte), cw = op ++ d →
    let isOperation : Prop :=
      op ∈ [0x11#8, 0x20#8, 0x21#8, 0x31#8, 0x34#8, 0x41#8, 0x43#8, 0x48#8, 0x49#8, 0x4A#8, 0x4B#8, 0x4C#8, 0x4D#8] ∨
      (op ∈ [0x10#8, 0x12#8, 0x13#8, 0x14#8, 0x22#8, 0x30#8, 0x32#8, 0x33#8, 0x35#8, 0x40#8, 0x42#8, 0x44#8, 0xF0#8] ∧
        d = 0x00#8)
    (isOperation → ∃ i, decode cw = .ok i) ∧
    (¬ isOperation → ∀ (s : State) (rest : List Input), s.inputs = .command cw :: rest →
      step s = .next { s with inputs := rest, rsp := some ⟨0x3F, 0, []⟩ })

/-- 20_memory.md R70: the state after a sequence of operations is the fold of the operation rules over that sequence. -/
def Obligations.RunIsTheFoldOfOperations : Prop :=
  ∀ (is : List Instr) (s : State), s.inputs = [] →
    Host.Core.run Sys2Proof.core is.length { s with inputs := is.map fun i => .command (encode i) } = (runOps is s).2

/-! ### Reset -/

/-- 10_state.md R38: after `SYS.RESET`, after the reset input (in the model an element of `inputs`, log entry 2), and in the
state right after reset, every register has its reset value. -/
def Obligations.RegistersAfterReset : Prop :=
  (∀ s : State, ∃ t, exec .sysReset s = .next t ∧ ResetValues t) ∧
  (∀ (s : State) (rest : List Input), s.inputs = .rst :: rest → ∃ t, step s = .next t ∧ ResetValues t) ∧
  ResetValues State.reset

/-- 70_reset_and_hazards.md, section 1: `SYS.RESET` is `0xF000`, answers `OK` and emits nothing; the reset input gives no
response; both leave the transmit history as it is. How the model shows "no response" and that the history is kept are log
entries 3 and 4. -/
def Obligations.ResetTransmitsNothing : Prop :=
  decode 0xF000 = .ok .sysReset ∧
  (∀ s : State, exec .sysReset s =
    .next { s with cs := .reset, enc := .reset, dec := .reset, evt := .reset, rsp := some ⟨0x00, 0, []⟩ }) ∧
  (∀ (s : State) (rest : List Input), s.inputs = .rst :: rest → step s =
    .next { s with cs := .reset, enc := .reset, dec := .reset, evt := .reset, rsp := none, inputs := rest })

/-! ### Unit CS -/

/-- 40_checksum.md R127. -/
def Obligations.CsInitStartsAChecksum : Prop :=
  decode 0x1000 = .ok .csInit ∧
  ∀ s : State, exec .csInit s = .next { s with cs := ⟨0x0000147A⟩, rsp := some ⟨0x00, 0, []⟩ }

/-- 40_checksum.md R121, R128: the rotate, the inversion and the unmasked sum, for any accumulator; and `CS.BYTE` writes
exactly that, so the sum fits its register. -/
def Obligations.CsByteFoldsOneByte : Prop :=
  (∀ a b : Nat,
    let rotated := ((a <<< 1) &&& 0xFFFF) ||| ((a >>> 15) &&& 0x01)
    let inverted := rotated ^^^ 0xFFFF
    csumStep a b = inverted + (inverted >>> 8) + b) ∧
  ∀ (d : Byte) (s : State),
    decode (0x11#8 ++ d) = .ok (.csByte d) ∧
    ∃ t, exec (.csByte d) s = .next t ∧ t = { s with cs := t.cs, rsp := some ⟨0x00, 0, []⟩ } ∧
      t.cs.acc.toNat = csumStep s.cs.acc.toNat d.toNat

/-- 40_checksum.md R129 to R131: the three reads answer from `CS_ACC` and change nothing. -/
def Obligations.CsReadsAnswerTheAccumulator : Prop :=
  decode 0x1200 = .ok .csRdhi ∧ decode 0x1300 = .ok .csRdlo ∧ decode 0x1400 = .ok .csRdacc ∧
  ∀ s : State,
    exec .csRdhi s = .next { s with rsp := some ⟨0x00, (s.cs.acc >>> 8) &&& 0xFF, []⟩ } ∧
    exec .csRdlo s = .next { s with rsp := some ⟨0x00, s.cs.acc &&& 0xFF, []⟩ } ∧
    exec .csRdacc s = .next { s with rsp := some ⟨0x00, s.cs.acc, []⟩ }

/-- 40_checksum.md, section 2 (the spec marks it derived): the step depends on the accumulator only through its low 16
bits, and `rotated` is their left rotation by one. -/
def Obligations.ChecksumStepReadsSixteenBits : Prop :=
  ∀ a b : Nat,
    csumStep a b = csumStep (a % 0x10000) b ∧
    csumStep a b =
      (let inverted := 0xFFFF - ((BitVec.ofNat 16 a).rotateLeft 1).toNat
       inverted + inverted / 0x100 + b)

/-- 40_checksum.md, section 2 (the spec marks it derived): the range of one step, both ends reached, and so of every
checksum; bit 16 really occurs. -/
def Obligations.ChecksumStepRange : Prop :=
  (∀ a b : Nat, b ≤ 0xFF → csumStep a b ≤ 0x101FD) ∧
  csumStep 0x0000 0xFF = 0x101FD ∧ csumStep 0xFFFF 0x00 = 0 ∧
  (∀ bytes : List Byte, checksum bytes ≤ 0x101FD) ∧
  checksum [0x8C, 0x60, 0x00, 0xFE, 0x00, 0xFE] = 0x10000

/-- 40_checksum.md, section 2 (the spec marks it derived): masking the accumulator to 16 bits after every step changes no
output byte. -/
def Obligations.MaskedChecksumHasTheSameBytes : Prop :=
  ∀ bytes : List Byte,
    let masked := bytes.foldl (fun a b => csumStep a b.toNat % 0x10000) 0x147A
    masked = checksum bytes % 0x10000 ∧ crcHi masked = crcHi (checksum bytes) ∧ crcLo masked = crcLo (checksum bytes)

/-- 40_checksum.md, section 2 (the spec marks it derived): the engine refines the function, whatever operations of other
units stand in between; the plain sequence always completes; from an accumulator at `0x147A` the leading `CS.INIT` may be
omitted. -/
def Obligations.ChecksumEngineRefinesChecksum : Prop :=
  (∀ (bytes : List Byte) (s : State), ∃ t,
    runOps (csSum bytes) s = (List.replicate (bytes.length + 1) ⟨0x00, 0, []⟩, .next t) ∧
    t.cs.acc.toNat = checksum bytes) ∧
  (∀ (bytes : List Byte) (ops : List Instr) (s t : State) (rs : List Response),
    (ops.filter (concerns .cs) = csSum bytes ∨
      (ops.filter (concerns .cs) = bytes.map .csByte ∧ s.cs.acc = 0x147A)) →
    runOps ops s = (rs, .next t) →
    t.cs.acc.toNat = checksum bytes ∧
    exec .csRdhi t = .next { t with rsp := some ⟨0x00, (crcHi (checksum bytes)).setWidth 32, []⟩ } ∧
    exec .csRdlo t = .next { t with rsp := some ⟨0x00, (crcLo (checksum bytes)).setWidth 32, []⟩ })

/-! ### Unit ENC -/

/-- 41_frame_encoder.md R143, with the escape of R141. -/
def Obligations.EncStartOpensAFrame : Prop :=
  ∀ (d : Byte) (s : State),
    decode (0x20#8 ++ d) = .ok (.encStart d) ∧
    (s.enc.st = .idle → exec (.encStart d) s =
      .next { s with
        enc := ⟨.body, BitVec.ofNat 32 (csumStep 0x147A d.toNat)⟩
        rsp := some ⟨0x00, 0, [0xFE, 0xFE] ++ (if d = 0xFE then [0xFE, 0xF0] else [d])⟩
        txLog := s.txLog ++ ([0xFE, 0xFE] ++ (if d = 0xFE then [0xFE, 0xF0] else [d])) }) ∧
    (s.enc.st ≠ .idle → exec (.encStart d) s = .next { s with rsp := some ⟨0x30, 0, []⟩ })

/-- 41_frame_encoder.md R144, with the escape of R141. -/
def Obligations.EncByteAppendsAPayloadByte : Prop :=
  ∀ (d : Byte) (s : State),
    decode (0x21#8 ++ d) = .ok (.encByte d) ∧
    (s.enc.st = .body → exec (.encByte d) s =
      .next { s with
        enc := ⟨.body, BitVec.ofNat 32 (csumStep s.enc.acc.toNat d.toNat)⟩
        rsp := some ⟨0x00, 0, if d = 0xFE then [0xFE, 0xF0] else [d]⟩
        txLog := s.txLog ++ (if d = 0xFE then [0xFE, 0xF0] else [d]) }) ∧
    (s.enc.st ≠ .body → exec (.encByte d) s = .next { s with rsp := some ⟨0x30, 0, []⟩ })

/-- 41_frame_encoder.md R145, with the escape of R141. -/
def Obligations.EncEndClosesTheFrame : Prop :=
  decode 0x2200 = .ok .encEnd ∧
  ∀ (s : State),
    let hi : Byte := (s.enc.acc >>> 8).setWidth 8
    let lo : Byte := s.enc.acc.setWidth 8
    let tail := (if hi = 0xFE then [0xFE, 0xF0] else [hi]) ++ (if lo = 0xFE then [0xFE, 0xF0] else [lo]) ++ [0xFE, 0x0D]
    (s.enc.st = .body → exec .encEnd s =
      .next { s with
        enc := { s.enc with st := .idle }
        rsp := some ⟨0x00, 0, tail⟩
        txLog := s.txLog ++ tail }) ∧
    (s.enc.st ≠ .body → exec .encEnd s = .next { s with rsp := some ⟨0x30, 0, []⟩ })

/-- 41_frame_encoder.md, section 3 (the spec marks it derived): the encoder refines `encode(c, p)`, whatever operations of
other units stand in between; the plain sequence answers `OK` every time. -/
def Obligations.EncoderRefinesEncode : Prop :=
  (∀ (c : Byte) (p : List Byte) (s : State), s.enc.st = .idle → ∃ rs t,
    runOps (encFrame c p) s = (rs, .next t) ∧ rs.length = p.length + 2 ∧
    (∀ r ∈ rs, r.status = 0x00 ∧ r.res = 0) ∧ rs.flatMap Response.tx = encodeFrame c p ∧ t.enc.st = .idle) ∧
  (∀ (c : Byte) (p : List Byte) (ops : List Instr) (s t : State) (rs : List Response),
    s.enc.st = .idle → ops.filter (concerns .enc) = encFrame c p → runOps ops s = (rs, .next t) →
    t.enc.st = .idle ∧ t.txLog = s.txLog ++ encodeFrame c p ∧ rs.flatMap Response.tx = encodeFrame c p)

/-- 41_frame_encoder.md, section 3 and 30_encoding.md, section 2 (the spec marks these derived): the shape and the wire
length of a frame, and the escaping invariant between the delimiters. -/
def Obligations.EncodedFrameShape : Prop :=
  ∀ (c : Byte) (p : List Byte), ∃ mid : List Byte,
    encodeFrame c p = [0xFE, 0xFE] ++ mid ++ [0xFE, 0x0D] ∧
    (∀ i : Nat, mid[i]? = some 0xFE#8 → mid[i + 1]? = some 0xF0#8) ∧
    (encodeFrame c p).length = p.length + 7 +
      (c :: p ++ [crcHi (checksum (c :: p)), crcLo (checksum (c :: p))]).count 0xFE#8

/-- 41_frame_encoder.md, section 3 (the spec marks it derived): the encoder's state machine. An open frame is left only by
`ENC.END` or by reset, and one is opened only by `ENC.START`. -/
def Obligations.OpenFrameIsLeftOnlyByEndOrReset : Prop :=
  ∀ (i : Instr) (s t : State), exec i s = .next t →
    (s.enc.st = .body → t.enc.st = .idle → i = .encEnd ∨ i = .sysReset) ∧
    (s.enc.st = .idle → t.enc.st = .body → ∃ d, i = .encStart d) ∧
    (s.enc.st = .idle → (i = .encEnd ∨ ∃ d, i = .encByte d) → t = { s with rsp := some ⟨0x30, 0, []⟩ }) ∧
    (s.enc.st = .body → (∃ d, i = .encStart d) → t = { s with rsp := some ⟨0x30, 0, []⟩ })

/-! ### Unit DEC -/

/-- 42_frame_decoder.md R165, R166: a byte pushed while the decoder hunts. -/
def Obligations.PushWhileHunting : Prop :=
  ∀ (d : Byte) (s : State),
    decode (0x31#8 ++ d) = .ok (.decPush d) ∧
    (s.dec.st = .hunt → exec (.decPush d) s =
      .next { s with dec := { s.dec with st := if d = 0xFE then .huntFe else .hunt }, rsp := some ⟨0x01, 0, []⟩ }) ∧
    (s.dec.st = .huntFe → exec (.decPush d) s =
      .next { s with
        dec := if d = 0xFE then { s.dec with st := .body, cnt := 0, ovf := false, valid := false }
          else { s.dec with st := .hunt }
        rsp := some ⟨0x01, 0, []⟩ })

/-- 42_frame_decoder.md R167 to R169: a byte pushed inside a frame is appended, as itself or as the `0xFE` an escape pair
stands for, or is dropped and remembered once the buffer is full. The last clause says what the buffer then reads as. -/
def Obligations.PushInsideAFrameAppends : Prop :=
  ∀ (d : Byte) (s : State),
    let append (b : Byte) : DecUnit :=
      if s.dec.cnt < s.cfg.decCap
      then { s.dec with buf := s.dec.buf.write s.dec.cnt b, cnt := s.dec.cnt + 1 }
      else { s.dec with ovf := true }
    (s.dec.st = .body → exec (.decPush d) s =
      .next { s with
        dec := if d = 0xFE then { s.dec with st := .bodyFe } else append d
        rsp := some ⟨0x01, 0, []⟩ }) ∧
    (s.dec.st = .bodyFe → exec (.decPush 0xF0) s =
      .next { s with dec := { append 0xFE with st := .body }, rsp := some ⟨0x01, 0, []⟩ }) ∧
    (s.dec.buf.wf = true → ∀ (b : Byte) (i : Nat),
      (s.dec.buf.write s.dec.cnt b).read i = if i = s.dec.cnt then b else s.dec.buf.read i)

/-- 42_frame_decoder.md R170: the end delimiter completes the frame, which is judged in the order overflow, too short,
checksum. -/
def Obligations.EndDelimiterJudgesTheFrame : Prop :=
  ∀ s : State, s.dec.st = .bodyFe →
    let n := s.dec.cnt
    let a := checksum (s.dec.buf.bytes (n - 2))
    let matching : Prop := (a >>> 8) &&& 0xFF = (s.dec.buf.read (n - 2)).toNat ∧ a &&& 0xFF = (s.dec.buf.read (n - 1)).toNat
    (s.dec.ovf = true → exec (.decPush 0x0D) s =
      .next { s with dec := { s.dec with st := .hunt, err := 0x13 }, rsp := some ⟨0x13, 0, []⟩ }) ∧
    (s.dec.ovf = false → n < 3 → exec (.decPush 0x0D) s =
      .next { s with dec := { s.dec with st := .hunt, err := 0x12 }, rsp := some ⟨0x12, 0, []⟩ }) ∧
    (s.dec.ovf = false → 3 ≤ n → n ≤ s.cfg.decCap → matching → exec (.decPush 0x0D) s =
      .next { s with
        dec := { s.dec with st := .hunt, valid := true, err := 0x02 }
        rsp := some ⟨0x02, BitVec.ofNat 32 (n - 3), []⟩ }) ∧
    (s.dec.ovf = false → 3 ≤ n → n ≤ s.cfg.decCap → ¬ matching → exec (.decPush 0x0D) s =
      .next { s with dec := { s.dec with st := .hunt, err := 0x10 }, rsp := some ⟨0x10, 0, []⟩ })

/-- 42_frame_decoder.md R171. -/
def Obligations.BadEscapeIsMalformed : Prop :=
  ∀ (d : Byte) (s : State), s.dec.st = .bodyFe → d ≠ 0xF0 → d ≠ 0x0D →
    exec (.decPush d) s =
      .next { s with dec := { s.dec with st := .hunt, err := 0x11 }, rsp := some ⟨0x11, 0, []⟩ }

/-- 42_frame_decoder.md R172: `DEC_BUF` keeps its bytes. -/
def Obligations.DecResetHuntsAfresh : Prop :=
  decode 0x3000 = .ok .decReset ∧
  ∀ s : State, exec .decReset s =
    .next { s with
      dec := { s.dec with st := .hunt, cnt := 0, ovf := false, valid := false, err := 0x00 }
      rsp := some ⟨0x00, 0, []⟩ }

/-- 42_frame_decoder.md R173 to R175: the reads of a decoded frame. The premise on the count is part of the invariant of
10_state.md R31. -/
def Obligations.DecReadsAnswerTheFrame : Prop :=
  decode 0x3200 = .ok .decRdcmd ∧ decode 0x3300 = .ok .decRdlen ∧
  ∀ (d : Byte) (s : State),
    decode (0x34#8 ++ d) = .ok (.decRdpay d) ∧
    (s.dec.valid = false →
      exec .decRdcmd s = .next { s with rsp := some ⟨0x31, 0, []⟩ } ∧
      exec .decRdlen s = .next { s with rsp := some ⟨0x31, 0, []⟩ } ∧
      exec (.decRdpay d) s = .next { s with rsp := some ⟨0x31, 0, []⟩ }) ∧
    (s.dec.valid = true → 3 ≤ s.dec.cnt → s.dec.cnt ≤ s.cfg.decCap →
      exec .decRdcmd s = .next { s with rsp := some ⟨0x00, (s.dec.buf.read 0).setWidth 32, []⟩ } ∧
      exec .decRdlen s = .next { s with rsp := some ⟨0x00, BitVec.ofNat 32 (s.dec.cnt - 3), []⟩ } ∧
      (s.dec.cnt - 3 ≤ d.toNat → exec (.decRdpay d) s = .next { s with rsp := some ⟨0x32, 0, []⟩ }) ∧
      (d.toNat < s.dec.cnt - 3 → exec (.decRdpay d) s =
        .next { s with rsp := some ⟨0x00, (s.dec.buf.read (1 + d.toNat)).setWidth 32, []⟩ }))

/-- 42_frame_decoder.md R176: every field of the status word. -/
def Obligations.DecStatusWordLayout : Prop :=
  decode 0x3500 = .ok .decRdstat ∧
  ∀ s : State, ∃ w : Res,
    exec .decRdstat s = .next { s with rsp := some ⟨0x00, w, []⟩ } ∧
    w.extractLsb' 0 2 = (match s.dec.st with | .hunt => 0#2 | .huntFe => 1#2 | .body => 2#2 | .bodyFe => 3#2) ∧
    w.getLsbD 2 = s.dec.valid ∧ w.getLsbD 3 = s.dec.ovf ∧ w.extractLsb' 4 4 = 0#4 ∧
    w.extractLsb' 8 8 = s.dec.err ∧ w.extractLsb' 16 9 = BitVec.ofNat 9 s.dec.cnt ∧ w.extractLsb' 25 7 = 0#7

/-- 42_frame_decoder.md R181: after any completion, malformed ones included, the decoder hunts, and from there the next
well-formed frame is decoded normally whatever went before; a frame beyond the capacity is `MALFORMED_OVERFLOW`. The
canonical form of the buffer is part of the model's invariant. -/
def Obligations.CompletionLeavesADecoderThatDecodes : Prop :=
  (∀ (d : Byte) (s t : State) (r : Response), exec (.decPush d) s = .next t → t.rsp = some r → r.status ≠ 0x01 →
    t.dec.st = .hunt) ∧
  (∀ (c : Byte) (p : List Byte) (s : State), s.dec.st = .hunt → s.dec.buf.wf = true →
    let wire := encodeFrame c p
    let waiting := List.replicate (wire.length - 1) (⟨0x01, 0, []⟩ : Response)
    (p.length + 3 ≤ s.cfg.decCap → ∃ t,
      runOps (decFeed wire) s = (waiting ++ [⟨0x02, BitVec.ofNat 32 p.length, []⟩], .next t) ∧
      t.dec.st = .hunt ∧ t.dec.valid = true ∧ heldFrame t.dec = .frame c p) ∧
    (s.cfg.decCap < p.length + 3 → ∃ t,
      runOps (decFeed wire) s = (waiting ++ [⟨0x13, 0, []⟩], .next t) ∧ t.dec.st = .hunt ∧ t.dec.valid = false))

/-- 42_frame_decoder.md, section 4 (the spec marks it derived, from a property of SLR): decode after encode is the
identity within the capacity, and `MALFORMED_OVERFLOW` beyond it. -/
def Obligations.DecodeInvertsEncode : Prop :=
  ∀ (cap : Nat) (u : DecUnit) (c : Byte) (p : List Byte), u.buf.wf = true →
    (p.length + 3 ≤ cap → decodeBuffer cap u (encodeFrame c p) = .ok (.frame c p)) ∧
    (cap < p.length + 3 → decodeBuffer cap u (encodeFrame c p) = .ok (.malformed .malformedOverflow))

/-- 42_frame_decoder.md, section 4 (the spec marks it derived): a frame amid noise and trailing bytes is found; a proper
prefix needs more data; a stray `0xFE` directly before a frame costs that frame in the ways the spec lists. -/
def Obligations.DecodeFindsTheFrameInABuffer : Prop :=
  ∀ (cap : Nat) (u : DecUnit) (c : Byte) (p g tail : List Byte), u.buf.wf = true → quiet g → p.length + 3 ≤ cap →
    decodeBuffer cap u (g ++ encodeFrame c p ++ tail) = .ok (.frame c p) ∧
    (∀ b : List Byte, b <+: g ++ encodeFrame c p → b ≠ g ++ encodeFrame c p →
      decodeBuffer cap u b = .ok .needMoreData) ∧
    (c ≠ 0x0D → c ≠ 0xF0 →
      decodeBuffer cap u (g ++ [0xFE] ++ encodeFrame c p ++ tail) = .ok (.malformed .malformedBadEscape)) ∧
    (c = 0x0D → decodeBuffer cap u (g ++ [0xFE] ++ encodeFrame c p ++ tail) = .ok (.malformed .malformedTooShort)) ∧
    (c = 0xF0 → decodeBuffer cap u (g ++ [0xFE] ++ encodeFrame c p ++ tail) =
      .ok (if crcHi (checksum (0xFE :: p)) = crcHi (checksum (c :: p)) ∧
              crcLo (checksum (0xFE :: p)) = crcLo (checksum (c :: p))
           then .frame 0xFE p else .malformed .malformedChecksum))

/-- 70_reset_and_hazards.md, section 3 (the spec marks it derived): a decoded frame stays readable, unchanged, until the
push that completes the next start delimiter, a `DEC.RESET`, or reset; each of these ends it. -/
def Obligations.DecodedFrameLifetime : Prop :=
  ∀ (i : Instr) (s t : State), Inv s → s.dec.valid = true → exec i s = .next t →
    let ends : Prop := i = .decReset ∨ i = .sysReset ∨ (i = .decPush 0xFE ∧ s.dec.st = .huntFe)
    (ends → t.dec.valid = false) ∧
    (¬ ends → t.dec.valid = true ∧ heldFrame t.dec = heldFrame s.dec ∧ t.dec.err = s.dec.err)

/-- 10_state.md, section 1 and 60_exceptions.md, section 2: `DEC_ERR` is the status of the most recent completion; only a
completion overwrites it and only `DEC.RESET` or reset clears it. -/
def Obligations.DecErrRecordsTheLastCompletion : Prop :=
  ∀ (i : Instr) (s t : State) (r : Response), exec i s = .next t → t.rsp = some r →
    ((∃ d, i = .decPush d) → r.status ≠ 0x01 → t.dec.err = r.status) ∧
    ((∃ d, i = .decPush d) → r.status = 0x01 → t.dec.err = s.dec.err) ∧
    (i = .decReset ∨ i = .sysReset → t.dec.err = 0x00) ∧
    ((∀ d, i ≠ .decPush d) → i ≠ .decReset → i ≠ .sysReset → t.dec.err = s.dec.err)

/-! ### Unit EVT -/

/-- 43_event_unpacker.md R201. -/
def Obligations.EvtClearEmptiesTheLoader : Prop :=
  decode 0x4000 = .ok .evtClear ∧
  ∀ s : State, exec .evtClear s =
    .next { s with
      evt := { s.evt with recCnt := 0, valid := false, yearValid := false }
      rsp := some ⟨0x00, 0, []⟩ }

/-- 43_event_unpacker.md R202: the byte goes to `REC[REC_CNT]`, a ninth or later byte is dropped, the count saturates at
9. The canonical form of `REC` is part of the model's invariant. -/
def Obligations.EvtPushLoadsOneByte : Prop :=
  ∀ (d : Byte) (s : State),
    decode (0x41#8 ++ d) = .ok (.evtPush d) ∧
    ∃ m : Memory,
      exec (.evtPush d) s =
        .next { s with
          evt := { s.evt with
            record := m, recCnt := min (s.evt.recCnt + 1) 9, valid := false, yearValid := false }
          rsp := some ⟨0x00, 0, []⟩ } ∧
      (8 ≤ s.evt.recCnt → m = s.evt.record) ∧
      (s.evt.recCnt < 8 → s.evt.record.wf = true → ∀ k,
        m.read k = if k = s.evt.recCnt then d else s.evt.record.read k)

/-- 43_event_unpacker.md R203, R204: the length check and every field by its shift and mask. -/
def Obligations.EvtUnpackLatchesTheFields : Prop :=
  decode 0x4200 = .ok .evtUnpack ∧
  ∀ s : State,
    let b (k : Nat) : Nat := (s.evt.record.read (k - 1)).toNat
    let hourMin := ((b 3 &&& 0x0F) <<< 8) ||| b 4
    (s.evt.recCnt ≠ 8 → exec .evtUnpack s =
      .next { s with
        evt := { s.evt with valid := false, yearValid := false }
        rsp := some ⟨0x20, 0, []⟩ }) ∧
    (s.evt.recCnt = 8 → ∃ f : EventFields,
      exec .evtUnpack s =
        .next { s with
          evt := { s.evt with fields := f, valid := true, yearValid := false }
          rsp := some ⟨0x00, 0, []⟩ } ∧
      f.ym.toNat = (b 1 >>> 6) &&& 0x03 ∧ f.z.toNat = (b 1 >>> 5) &&& 0x01 ∧
      f.day.toNat = b 2 &&& 0x1F ∧ f.month.toNat = (b 3 >>> 4) &&& 0x0F ∧
      f.hourMin.toNat = hourMin ∧ f.hour.toNat = hourMin / 60 ∧ f.minute.toNat = hourMin % 60 ∧
      f.restore.toNat = (b 5 >>> 2) &&& 0x01 ∧ f.partition.toNat = (b 5 >>> 3) &&& 0x1F ∧
      f.code.toNat = ((b 5 &&& 0x03) <<< 8) ||| b 6 ∧ f.source.toNat = b 7)

/-- 43_event_unpacker.md R206: the selector table, `INDEX_ERROR` before `NOT_VALID`, and nothing else changed. -/
def Obligations.EvtRdAnswersTheSelectedField : Prop :=
  ∀ (d : Byte) (s : State),
    let f := s.evt.fields
    let table : List (Byte × Bool × Res) :=
      [(0x00, s.evt.valid, f.ym.setWidth 32), (0x01, s.evt.valid, if f.z then 1 else 0),
       (0x02, s.evt.valid, f.day.setWidth 32), (0x03, s.evt.valid, f.month.setWidth 32),
       (0x04, s.evt.valid, f.hourMin.setWidth 32), (0x05, s.evt.valid, f.hour.setWidth 32),
       (0x06, s.evt.valid, f.minute.setWidth 32), (0x07, s.evt.valid, if f.restore then 1 else 0),
       (0x08, s.evt.valid, f.partition.setWidth 32), (0x09, s.evt.valid, f.code.setWidth 32),
       (0x0A, s.evt.valid, f.source.setWidth 32), (0x0B, s.evt.yearValid, s.evt.year.setWidth 32),
       (0x0C, s.evt.yearValid, if s.evt.dateOk then 1 else 0),
       (0x0D, s.evt.valid, (s.evt.record.read 0).setWidth 32), (0x0E, s.evt.valid, (s.evt.record.read 7).setWidth 32)]
    decode (0x43#8 ++ d) = .ok (.evtRd d) ∧
    (∀ e ∈ table, exec (.evtRd e.1) s =
      .next { s with rsp := some (if e.2.1 then ⟨0x00, e.2.2, []⟩ else ⟨0x31, 0, []⟩) }) ∧
    (0x0E < d.toNat → exec (.evtRd d) s = .next { s with rsp := some ⟨0x32, 0, []⟩ })

/-- 43_event_unpacker.md R211, R214, R215: the year of the unpacked record against a legal reference. -/
def Obligations.EvtYearResolvesTheYear : Prop :=
  decode 0x4400 = .ok .evtYear ∧
  ∀ s : State,
    let e := s.evt
    let ref : DateTime := ⟨e.ref.year.toNat, e.ref.month.toNat, e.ref.day.toNat, e.ref.hour.toNat, e.ref.minute.toNat⟩
    let at' (y : Nat) : DateTime := ⟨y, e.fields.month.toNat, e.fields.day.toNat, e.fields.hour.toNat, e.fields.minute.toNat⟩
    let legal : Prop := 4 ≤ ref.year ∧ validDt ref = true
    let y0 := ref.year - ref.year % 4 + e.fields.ym.toNat
    let y1 := if validDt (at' y0) = true then y0 else ref.year
    let y2 := if after (at' y1) ref = true then y1 - 4 else y1
    (e.valid = false → exec .evtYear s = .next { s with rsp := some ⟨0x31, 0, []⟩ }) ∧
    (e.valid = true → ¬ legal → exec .evtYear s = .next { s with rsp := some ⟨0x33, 0, []⟩ }) ∧
    (e.valid = true → legal → ∃ y : BitVec 16,
      exec .evtYear s =
        .next { s with
          evt := { e with yearValid := true, year := y, dateOk := validDt (at' y2) }
          rsp := some ⟨0x00, y.setWidth 32, []⟩ } ∧
      y.toNat = y2)

/-- 43_event_unpacker.md R216 to R221: the six writes of the reference. -/
def Obligations.ReferenceWrites : Prop :=
  ∀ (d : Byte) (s : State),
    let r := s.evt.ref
    let written (r' : Reference) : Host.Outcome State Fault Refusal :=
      .next { s with evt := { s.evt with ref := r', yearValid := false }, rsp := some ⟨0x00, 0, []⟩ }
    decode (0x48#8 ++ d) = .ok (.evtRefyh d) ∧ decode (0x49#8 ++ d) = .ok (.evtRefyl d) ∧
    decode (0x4A#8 ++ d) = .ok (.evtRefmon d) ∧ decode (0x4B#8 ++ d) = .ok (.evtRefday d) ∧
    decode (0x4C#8 ++ d) = .ok (.evtRefhour d) ∧ decode (0x4D#8 ++ d) = .ok (.evtRefmin d) ∧
    (∃ y : BitVec 16, exec (.evtRefyh d) s = written { r with year := y } ∧
      y.toNat = d.toNat * 256 + r.year.toNat % 256) ∧
    (∃ y : BitVec 16, exec (.evtRefyl d) s = written { r with year := y } ∧
      y.toNat = r.year.toNat / 256 * 256 + d.toNat) ∧
    exec (.evtRefmon d) s = written { r with month := d } ∧
    exec (.evtRefday d) s = written { r with day := d } ∧
    exec (.evtRefhour d) s = written { r with hour := d } ∧
    exec (.evtRefmin d) s = written { r with minute := d }

/-- 43_event_unpacker.md, section 3 (the spec marks it derived): the ranges after a successful `EVT.UNPACK`. -/
def Obligations.UnpackedFieldRanges : Prop :=
  ∀ (s t : State), s.evt.recCnt = 8 → exec .evtUnpack s = .next t →
    let f := t.evt.fields
    f.code.toNat ≤ 1023 ∧ f.partition.toNat ≤ 31 ∧ f.source.toNat ≤ 255 ∧ f.day.toNat ≤ 31 ∧ f.month.toNat ≤ 15 ∧
    f.ym.toNat ≤ 3 ∧ f.hourMin.toNat ≤ 4095 ∧ f.hour.toNat ≤ 68 ∧ f.minute.toNat ≤ 59 ∧
    f.hourMin.toNat = 60 * f.hour.toNat + f.minute.toNat

/-- 30_encoding.md, section 3 (the spec marks it derived): `b1[4:0]`, `b2[7:5]` and `b8` change no field. -/
def Obligations.UnusedRecordBitsAreIgnored : Prop :=
  ∀ b1 b2 b3 b4 b5 b6 b7 b8 x y z : Byte,
    unpackRecord ((b1 &&& 0xE0) ||| (x &&& 0x1F)) ((b2 &&& 0x1F) ||| (y &&& 0xE0)) b3 b4 b5 b6 b7 z =
      unpackRecord b1 b2 b3 b4 b5 b6 b7 b8

/-- 43_event_unpacker.md, sections 2 and 3 (corner cases and arithmetic laws the spec derives): against a legal reference
the year lies in `REF_YEAR - 4 .. REF_YEAR`, it fits its register, and it is 4 less than the candidate only when that is
at least 4. -/
def Obligations.ResolvedYearWindow : Prop :=
  ∀ (f : EventFields) (r : Reference), r.legal = true →
    r.year.toNat ≤ resolvedYear f r.dateTime + 4 ∧ resolvedYear f r.dateTime ≤ r.year.toNat ∧
    (BitVec.ofNat 16 (resolvedYear f r.dateTime)).toNat = resolvedYear f r.dateTime ∧
    (after (f.inYear (candidateYear f r.dateTime)) r.dateTime = true → 4 ≤ candidateYear f r.dateTime)

/-- 43_event_unpacker.md, section 2: the calendar of `valid_dt` (from general knowledge by the spec's own words, log entry
6) and the strict lexicographic order `after`: the first position where two tuples differ decides. -/
def Obligations.CalendarAndOrderOfDates : Prop :=
  (∀ t : DateTime, validDt t = true ↔
    (1 ≤ t.month ∧ t.month ≤ 12) ∧ t.hour ≤ 23 ∧ t.minute ≤ 59 ∧ 1 ≤ t.day ∧
    (t.month ∈ [1, 3, 5, 7, 8, 10, 12] → t.day ≤ 31) ∧ (t.month ∈ [4, 6, 9, 11] → t.day ≤ 30) ∧
    (t.month = 2 → t.day ≤ if (t.year % 4 = 0 ∧ t.year % 100 ≠ 0) ∨ t.year % 400 = 0 then 29 else 28)) ∧
  (∀ t r : DateTime, after t r = true ↔
    List.Lex (· < ·) [r.year, r.month, r.day, r.hour, r.minute] [t.year, t.month, t.day, t.hour, t.minute])

/-- 43_event_unpacker.md, section 3 (the spec marks it derived): loading `k` bytes and unpacking answers `OK` and latches
`unpack` when `k = 8`, `DECODE_FAILURE` otherwise; with a legal reference loaded before or after the record, a following
`EVT.YEAR` latches `resolve_year` of those fields. -/
def Obligations.RecordLoadingRefinesUnpack : Prop :=
  ∀ (r : List Byte) (ref : Reference) (s : State), s.evt.record.wf = true →
    (r.length ≠ 8 → ∃ t, runOps (evtLoad r ++ [.evtUnpack]) s =
      (List.replicate (r.length + 1) ⟨0x00, 0, []⟩ ++ [⟨0x20, 0, []⟩], .next t) ∧ t.evt.valid = false) ∧
    (∀ b1 b2 b3 b4 b5 b6 b7 b8 : Byte, r = [b1, b2, b3, b4, b5, b6, b7, b8] →
      let f := unpackRecord b1 b2 b3 b4 b5 b6 b7 b8
      (∃ t, runOps (evtLoad r ++ [.evtUnpack]) s = (List.replicate 10 ⟨0x00, 0, []⟩, .next t) ∧
        t.evt.valid = true ∧ t.evt.fields = f) ∧
      (ref.legal = true →
        ∀ ops, ops = evtLoad r ++ [.evtUnpack] ++ evtSetRef ref ++ [.evtYear] ∨
            ops = evtSetRef ref ++ evtLoad r ++ [.evtUnpack] ++ [.evtYear] →
          ∃ rs t, runOps ops s = (rs, .next t) ∧ (∀ x ∈ rs, x.status = 0x00) ∧
            t.evt.yearValid = true ∧ t.evt.fields = f ∧ t.evt.ref = ref ∧
            (t.evt.year.toNat, t.evt.dateOk) = resolveYear f ref.dateTime))

/-! ### The whole machine -/

/-- The invariant of 10_state.md R31 (which the spec marks derived) holds right after reset. -/
def Obligations.InvariantAfterReset : Prop := Inv State.reset ∧ Coherent State.reset

/-- 10_state.md, section 2 (the spec marks it derived): every step keeps the invariant, from every state that meets it. -/
def Obligations.StepKeepsTheInvariant : Prop :=
  ∀ s t : State, Inv s → step s = .next t → Inv t

/-- The latched results stay those of the registers they were computed from (92_eei_decisions.md D16; 10_state.md, section
1). -/
def Obligations.StepKeepsLatchedResultsCoherent : Prop :=
  ∀ s t : State, Inv s → Coherent s → step s = .next t → Coherent t

/-- 60_exceptions.md, section 1: no trap exists, so from every state that meets the invariant the step goes on, and to such
a state. -/
def Obligations.StepNeverStops : Prop :=
  ∀ s : State, Inv s → SafeStep s

/-- 60_exceptions.md R270 with the table of R271: every operation ends with exactly one response, and its status is one
that the table lets the operation return. -/
def Obligations.EveryOperationAnswersAListedStatus : Prop :=
  ∀ (i : Instr) (s : State), Inv s → ∃ t r, exec i s = .next t ∧ t.rsp = some r ∧
    r.status ∈ (match i with
      | .csInit | .csByte _ | .csRdhi | .csRdlo | .csRdacc => [0x00#8]
      | .encStart _ | .encByte _ | .encEnd => [0x00#8, 0x30#8]
      | .decReset | .decRdstat => [0x00#8]
      | .decPush _ => [0x01#8, 0x02#8, 0x10#8, 0x11#8, 0x12#8, 0x13#8]
      | .decRdcmd | .decRdlen => [0x00#8, 0x31#8]
      | .decRdpay _ => [0x00#8, 0x31#8, 0x32#8]
      | .evtClear | .evtPush _ => [0x00#8]
      | .evtUnpack => [0x00#8, 0x20#8]
      | .evtRd _ => [0x00#8, 0x31#8, 0x32#8]
      | .evtYear => [0x00#8, 0x31#8, 0x33#8]
      | .evtRefyh _ | .evtRefyl _ | .evtRefmon _ | .evtRefday _ | .evtRefhour _ | .evtRefmin _ => [0x00#8]
      | .sysReset => [0x00#8])

/-- 60_exceptions.md, section 2 (the spec marks it derived): a host error changes nothing at all. -/
def Obligations.HostErrorsChangeNothing : Prop :=
  ∀ (i : Instr) (s t : State) (r : Response), exec i s = .next t → t.rsp = some r →
    r.status ∈ [0x30#8, 0x31#8, 0x32#8, 0x33#8, 0x3F#8] → t = { s with rsp := some ⟨r.status, 0, []⟩ }

/-- 60_exceptions.md R274: which status wins. A word that is no operation is `ILLEGAL_OP` whatever the state; `EVT.RD`
above `0x0E` is `INDEX_ERROR` whatever is unpacked; `SEQ_ERROR` and `NOT_VALID` come before the rest; then `INDEX_ERROR` of
`DEC.RDPAY`; then `REF_INVALID`; at an end delimiter overflow, too short, checksum, `FRAME_OK`. -/
def Obligations.StatusPriority : Prop :=
  ∀ (d : Byte) (s : State),
    (∀ cw e rest, decode cw = .error e → s.inputs = .command cw :: rest →
      ∃ t, step s = .next t ∧ t.rsp = some ⟨0x3F, 0, []⟩) ∧
    (0x0E < d.toNat → ∃ t, exec (.evtRd d) s = .next t ∧ t.rsp = some ⟨0x32, 0, []⟩) ∧
    (d.toNat ≤ 0x0E → s.evt.valid = false → s.evt.yearValid = false →
      ∃ t, exec (.evtRd d) s = .next t ∧ t.rsp = some ⟨0x31, 0, []⟩) ∧
    (s.enc.st = .body → ∃ t, exec (.encStart d) s = .next t ∧ t.rsp = some ⟨0x30, 0, []⟩) ∧
    (s.enc.st = .idle → ∃ t, exec (.encByte d) s = .next t ∧ t.rsp = some ⟨0x30, 0, []⟩) ∧
    (s.enc.st = .idle → ∃ t, exec .encEnd s = .next t ∧ t.rsp = some ⟨0x30, 0, []⟩) ∧
    (s.dec.valid = false → ∃ t, exec (.decRdpay d) s = .next t ∧ t.rsp = some ⟨0x31, 0, []⟩) ∧
    (s.dec.valid = true → s.dec.cnt - 3 ≤ d.toNat → ∃ t, exec (.decRdpay d) s = .next t ∧ t.rsp = some ⟨0x32, 0, []⟩) ∧
    (s.evt.valid = false → ∃ t, exec .evtYear s = .next t ∧ t.rsp = some ⟨0x31, 0, []⟩) ∧
    (s.evt.valid = true → s.evt.ref.legal = false → ∃ t, exec .evtYear s = .next t ∧ t.rsp = some ⟨0x33, 0, []⟩) ∧
    (s.dec.st = .bodyFe → s.dec.ovf = true → ∃ t, exec (.decPush 0x0D) s = .next t ∧ t.rsp = some ⟨0x13, 0, []⟩) ∧
    (s.dec.st = .bodyFe → s.dec.ovf = false → s.dec.cnt < 3 →
      ∃ t, exec (.decPush 0x0D) s = .next t ∧ t.rsp = some ⟨0x12, 0, []⟩) ∧
    (s.dec.st = .bodyFe → s.dec.ovf = false → 3 ≤ s.dec.cnt → s.dec.cnt ≤ s.cfg.decCap →
      ∃ t, exec (.decPush 0x0D) s = .next t ∧
        t.rsp = some (if checksumMatches s.dec then ⟨0x02, BitVec.ofNat 32 (s.dec.cnt - 3), []⟩ else ⟨0x10, 0, []⟩))

/-- 20_memory.md, section 3: the eight read operations change no register and send nothing, and may be repeated with the
same answer until an operation of the same unit, or a reset, intervenes. -/
def Obligations.ReadsChangeNothingAndRepeat : Prop :=
  ∀ (i : Instr) (s t : State),
    (match i with
      | .csRdhi | .csRdlo | .csRdacc | .decRdcmd | .decRdlen | .decRdpay _ | .decRdstat | .evtRd _ => True
      | _ => False) →
    exec i s = .next t →
    t = { s with rsp := t.rsp } ∧
    ∀ (ops : List Instr) (rs : List Response) (u : State), (∀ j ∈ ops, concerns i.unit j = false) →
      runOps ops t = (rs, .next u) → exec i u = .next { u with rsp := t.rsp }

/-- 30_encoding.md R81 and 20_memory.md R74: the response triple. The status is a listed code; `res` is 0 but for a read
that answers `OK`, `EVT.YEAR` that answers `OK`, and `DEC.PUSH` that answers `FRAME_OK`; `tx` is empty but for `ENC`
operations; and it is exactly what is added to the transmit history (a field of the model, log entry 4). The last clause is
the response to a word that is no operation. -/
def Obligations.ResponseTriple : Prop :=
  (∀ (i : Instr) (s t : State), exec i s = .next t → ∃ r, t.rsp = some r ∧
    r.status ∈ [0x00#8, 0x01#8, 0x02#8, 0x10#8, 0x11#8, 0x12#8, 0x13#8, 0x20#8, 0x30#8, 0x31#8, 0x32#8, 0x33#8, 0x3F#8] ∧
    (r.res ≠ 0 → match i with
      | .csRdhi | .csRdlo | .csRdacc | .decRdcmd | .decRdlen | .decRdpay _ | .decRdstat | .evtRd _ | .evtYear =>
        r.status = 0x00
      | .decPush _ => r.status = 0x02
      | _ => False) ∧
    (i.unit ≠ .enc → r.tx = []) ∧ t.txLog = s.txLog ++ r.tx) ∧
  (∀ (cw : CmdWord) (e : DecodeError) (rest : List Input) (s t : State), decode cw = .error e →
    s.inputs = .command cw :: rest → step s = .next t → t.rsp = some ⟨0x3F, 0, []⟩ ∧ t.txLog = s.txLog)

/-- 20_memory.md R71: an operation of a unit writes only that unit's registers and depends only on them and on `DEC_CAP`;
operations of different units commute, with the same responses and the same transmit history; `SYS.RESET` writes every
unit. -/
def Obligations.UnitsAreIndependent : Prop :=
  (∀ (i : Instr) (u : OpUnit) (s t : State), exec i s = .next t → i.unit ≠ .sys → u ≠ .sys → u ≠ i.unit → SameUnit u s t) ∧
  (∀ (i : Instr) (s s' t : State), i.unit ≠ .sys → SameUnit i.unit s s' → s'.cfg = s.cfg → exec i s = .next t →
    ∃ t', exec i s' = .next t' ∧ SameUnit i.unit t t' ∧ t'.rsp = t.rsp) ∧
  (∀ (i j : Instr) (s si sij : State), i.unit ≠ .sys → j.unit ≠ .sys → i.unit ≠ j.unit →
    exec i s = .next si → exec j si = .next sij →
    ∃ sj sji, exec j s = .next sj ∧ exec i sj = .next sji ∧ SameRegisters sij sji ∧ sji.txLog = sij.txLog ∧
      sj.rsp = sij.rsp ∧ sji.rsp = si.rsp) ∧
  (∀ s : State, ∃ t, exec .sysReset s = .next t ∧
    t.cs = .reset ∧ t.enc = .reset ∧ t.dec = .reset ∧ t.evt = .reset)

/-- 10_state.md, section 2 (the spec marks it derived, item e of R31): what a buffer or field register holds before it is
written cannot be observed. Two states alike in all that operations can show stay so, and answer alike. -/
def Obligations.UnwrittenContentsAreUnobservable : Prop :=
  ∀ s s' t : State, Inv s → Inv s' → SameVisible s s' → step s = .next t →
    ∃ t', step s' = .next t' ∧ SameVisible t t'

/-- The frame of every operation but `SYS.RESET` over the registers (10_state.md R21 to R30, the "written by" lists): what
is not named for an operation is unchanged. -/
def Obligations.RegisterFrame : Prop :=
  ∀ (i : Instr) (s t : State), exec i s = .next t →
    t.cfg = s.cfg ∧ t.inputs = s.inputs ∧
    ((match i with | .csInit | .csByte _ | .sysReset => False | _ => True) → t.cs = s.cs) ∧
    ((match i with | .encStart _ | .encByte _ | .encEnd | .sysReset => False | _ => True) → t.enc = s.enc) ∧
    ((match i with | .encEnd => True | _ => False) → t.enc.acc = s.enc.acc) ∧
    ((match i with | .decPush _ | .decReset | .sysReset => False | _ => True) → t.dec = s.dec) ∧
    ((match i with | .evtClear | .evtPush _ | .sysReset => False | _ => True) →
      t.evt.record = s.evt.record ∧ t.evt.recCnt = s.evt.recCnt) ∧
    ((match i with | .evtClear | .evtPush _ | .evtUnpack | .sysReset => False | _ => True) →
      t.evt.valid = s.evt.valid) ∧
    ((match i with | .evtUnpack | .sysReset => False | _ => True) → t.evt.fields = s.evt.fields) ∧
    ((match i with | .evtYear | .sysReset => False | _ => True) →
      t.evt.year = s.evt.year ∧ t.evt.dateOk = s.evt.dateOk) ∧
    ((match i with | .evtRefyh _ | .evtRefyl _ | .sysReset => False | _ => True) → t.evt.ref.year = s.evt.ref.year) ∧
    ((match i with | .evtRefmon _ | .sysReset => False | _ => True) → t.evt.ref.month = s.evt.ref.month) ∧
    ((match i with | .evtRefday _ | .sysReset => False | _ => True) → t.evt.ref.day = s.evt.ref.day) ∧
    ((match i with | .evtRefhour _ | .sysReset => False | _ => True) → t.evt.ref.hour = s.evt.ref.hour) ∧
    ((match i with | .evtRefmin _ | .sysReset => False | _ => True) → t.evt.ref.minute = s.evt.ref.minute) ∧
    ((match i with
      | .evtClear | .evtPush _ | .evtUnpack | .evtYear | .evtRefyh _ | .evtRefyl _ | .evtRefmon _ | .evtRefday _
      | .evtRefhour _ | .evtRefmin _ | .sysReset => False
      | _ => True) → t.evt.yearValid = s.evt.yearValid)

/-- The frame of every operation but `SYS.RESET` over the two byte buffers (20_memory.md R60): `DEC.PUSH` stores at
`DEC_CNT`, and only where it appends (42_frame_decoder.md R167 to R169); `EVT.PUSH` stores at `REC_CNT`, and only below 8
(43_event_unpacker.md R202); every other byte reads as before, and every operation that stores nothing leaves all bytes. -/
def Obligations.ByteBufferFrame : Prop :=
  ∀ (i : Instr) (s t : State), exec i s = .next t → i ≠ .sysReset →
    let decStores : Prop := s.dec.cnt < s.cfg.decCap ∧
      ((s.dec.st = .body ∧ ∃ d, i = .decPush d ∧ d ≠ 0xFE) ∨ (s.dec.st = .bodyFe ∧ i = .decPush 0xF0))
    let recStores : Prop := s.evt.recCnt < 8 ∧ ∃ d, i = .evtPush d
    (decStores → ∀ a, a ≠ s.dec.cnt → t.dec.buf.read a = s.dec.buf.read a) ∧
    (¬ decStores → ∀ a, t.dec.buf.read a = s.dec.buf.read a) ∧
    (recStores → ∀ a, a ≠ s.evt.recCnt → t.evt.record.read a = s.evt.record.read a) ∧
    (¬ recStores → ∀ a, t.evt.record.read a = s.evt.record.read a)

/-! ### The host's program -/

/-- 44_host_controller.md R244: once the limit is reached the whole run stops, whatever classes are left, and the block is not
touched again; the accumulated result never exceeds the limit. -/
def Obligations.RetrievalRespectsTheLimit : Prop :=
  ∀ (n : Nat) (classes : List LogClass) (xs : List Exchange) (events : List Event) (s : State),
    (n ≤ events.length → ∃ ends, runClasses (some n) classes xs events s = some ⟨s, events, ends⟩) ∧
    (∀ r, events.length ≤ n → runClasses (some n) classes xs events s = some r → r.events.length ≤ n) ∧
    (∀ (requested : ClassSet) (r : RunResult), retrieveLogs (some n) requested xs s = some r → r.events.length ≤ n)

/-- 44_host_controller.md, section 4: nothing the panel or the transport delivers makes the retrieval stop without a
result, and events already accumulated are kept, first, whatever happens later; only a connection that is not established
fails, and then without events. -/
def Obligations.RetrievalAlwaysKeepsItsEvents : Prop :=
  ∀ (limit : Option Nat) (xs : List Exchange) (s : State), Inv s →
    (∀ (classes : List LogClass) (events : List Event), ∃ t more ends,
      runClasses limit classes xs events s = some ⟨t, events ++ more, ends⟩ ∧ Inv t) ∧
    (∀ requested : ClassSet,
      (∃ events timedOut, retrievalRun true limit requested xs s = some (.result events timedOut)) ∧
      retrievalRun false limit requested xs s = some .connectionFailure)

/-- 44_host_controller.md, sections 1 and 4: with both classes requested and no limit, the result is all that the Standard
loop gathers followed by all that the Grade2 loop gathers after it, whatever ended either; the caller sees which of the two
timed out, and the diagnostic log keeps how each ended. -/
def Obligations.RetrievalIsStandardThenGrade2 : Prop :=
  ∀ (xs : List Exchange) (s : State), Inv s → ∃ first second : ClassResult,
    classLoop .standard none xs (initialCursor .standard) [] s = some first ∧
    classLoop .grade2 none first.rest (initialCursor .grade2) [] first.block = some second ∧
    retrieveLogs none ⟨true, true⟩ xs s = some ⟨second.block, first.events ++ second.events,
      [(.standard, first.why), (.grade2, second.why)]⟩ ∧
    retrievalRun true none ⟨true, true⟩ xs s = some (.result (first.events ++ second.events)
      ((if first.why = .timedOut then [.standard] else []) ++ (if second.why = .timedOut then [.grade2] else [])))
end

