-- ==== Sys2Proof/Laws/Checksum.lean ====
section
/-!
SUPPORT. The checksum step in plain arithmetic, so that no later proof meets its bit operations (40_checksum.md R135).
-/

namespace Sys2Proof.Machine

/-- The 16-bit left rotation by one of the low 16 bits. -/
def rotated (a : Nat) : Nat := 2 * (a % 32768) + a / 32768 % 2

theorem rotated_lt (a : Nat) : rotated a < 65536 := by
  unfold rotated; omega

theorem rotated_bits (a : Nat) : ((a <<< 1) &&& 0xFFFF) ||| ((a >>> 15) &&& 0x01) = rotated a := by
  have h1 : (a <<< 1) &&& 0xFFFF = a % 32768 * 2 ^ 1 := by
    rw [show (0xFFFF : Nat) = 2 ^ 16 - 1 from rfl, Nat.and_two_pow_sub_one_eq_mod, Nat.shiftLeft_eq]
    omega
  have h2 : (a >>> 15) &&& 0x01 = a / 32768 % 2 := by
    rw [show (0x01 : Nat) = 2 ^ 1 - 1 from rfl, Nat.and_two_pow_sub_one_eq_mod, Nat.shiftRight_eq_div_pow]
  rw [h1, h2, ← Nat.shiftLeft_eq, ← Nat.shiftLeft_add_eq_or_of_lt (by omega), Nat.shiftLeft_eq]
  unfold rotated
  omega

theorem xor_ones {r : Nat} (h : r < 65536) : r ^^^ 0xFFFF = 65535 - r := by
  apply Nat.eq_of_testBit_eq
  intro i
  have hs : 65535 - r = 2 ^ 16 - (r + 1) := by omega
  rw [hs, Nat.testBit_two_pow_sub_succ (show r < 2 ^ 16 from h), Nat.testBit_xor,
    show (0xFFFF : Nat) = 2 ^ 16 - 1 from rfl, Nat.testBit_two_pow_sub_one]
  by_cases hi : i < 16
  · simp [hi]
  · have : r.testBit i = false :=
      Nat.testBit_lt_two_pow (Nat.lt_of_lt_of_le (show r < 2 ^ 16 from h)
        (Nat.pow_le_pow_right (by decide) (Nat.le_of_not_lt hi)))
    simp [hi, this]

/-- `csum_step` in plain arithmetic (40_checksum.md R121, R135). -/
theorem csumStep_eq (a b : Nat) : csumStep a b = (65535 - rotated a) + (65535 - rotated a) / 256 + b := by
  simp only [csumStep]
  rw [rotated_bits, xor_ones (rotated_lt a), Nat.shiftRight_eq_div_pow]

theorem csumStep_lt {a b : Nat} (h : b < 256) : csumStep a b < 2 ^ 32 := by
  rw [csumStep_eq]; omega

@[simp] theorem crcHi_toNat (a : Nat) : (crcHi a).toNat = a / 256 % 256 := by
  rw [crcHi, BitVec.toNat_ofNat, show (0xFF : Nat) = 2 ^ 8 - 1 from rfl, Nat.and_two_pow_sub_one_eq_mod,
    Nat.shiftRight_eq_div_pow]
  omega

@[simp] theorem crcLo_toNat (a : Nat) : (crcLo a).toNat = a % 256 := by
  rw [crcLo, BitVec.toNat_ofNat, show (0xFF : Nat) = 2 ^ 8 - 1 from rfl, Nat.and_two_pow_sub_one_eq_mod]
  omega

@[simp] theorem accInit_toNat : accInit.toNat = 0x147A := rfl

/-- The accumulator register holds the unmasked sum exactly (40_checksum.md R128). -/
@[simp] theorem accStep_toNat (a : Acc) (d : Byte) : (accStep a d).toNat = csumStep a.toNat d.toNat := by
  rw [accStep, BitVec.toNat_ofNat, Nat.mod_eq_of_lt (csumStep_lt d.isLt)]

@[simp] theorem csumFold_nil (a : Nat) : csumFold a [] = a := rfl

@[simp] theorem csumFold_cons (a : Nat) (b : Byte) (bs : List Byte) :
    csumFold a (b :: bs) = csumFold (csumStep a b.toNat) bs := rfl

theorem csumFold_append (a : Nat) (xs ys : List Byte) : csumFold a (xs ++ ys) = csumFold (csumFold a xs) ys := by
  simp [csumFold]

end Sys2Proof.Machine
end

