-- ==== Sys2Proof/Laws/Controller.lean ====
section
/-!
SUPPORT. What the host's shared functions can do; later proofs cite these instead of unfolding (44_host_controller.md).
-/

namespace Sys2Proof.Machine

@[simp] theorem limitHit_none (events : List Event) : limitHit none events = false := rfl

@[simp] theorem limitHit_some (n : Nat) (events : List Event) : limitHit (some n) events = decide (n ≤ events.length) := rfl

/-- An operation the block goes on from, as the host sees it. -/
theorem perform_eq {i : Instr} {s t : State} {r : Response} (h : exec i s = .next t) (hr : t.rsp = some r) :
    perform i s = some (t, r) := by
  simp [perform, h, hr]

/-- A record ends a class as a decode failure, as an end of log, or not at all (R247, R257). -/
theorem recordEnd_cases (unpackStatus : BitVec 8) (marker : Res) :
    (unpackStatus = Status.decodeFailure.code ∧ recordEnd unpackStatus marker = some .decodeFailure) ∨
    (unpackStatus ≠ Status.decodeFailure.code ∧ marker = 0 ∧ recordEnd unpackStatus marker = some .endOfLog) ∨
    (unpackStatus ≠ Status.decodeFailure.code ∧ marker ≠ 0 ∧ recordEnd unpackStatus marker = none) := by
  unfold recordEnd
  by_cases h : unpackStatus = Status.decodeFailure.code
  · exact .inl ⟨h, if_pos h⟩
  · by_cases hm : marker = 0
    · exact .inr (.inl ⟨h, hm, by rw [if_neg h, if_pos hm]⟩)
    · exact .inr (.inr ⟨h, hm, by rw [if_neg h, if_neg hm]⟩)

/-- Without a limit a class's loop does not depend on the events gathered before it, and keeps them first. -/
theorem classLoop_events (cls : LogClass) (xs : List Exchange) (cur : Cursor) (events : List Event) (s : State) :
    classLoop cls none xs cur events s =
      (classLoop cls none xs cur [] s).map fun r => { r with events := events ++ r.events } := by
  induction xs generalizing cur events s with
  | nil => unfold classLoop; simp [Function.comp_def]
  | cons x xs ih =>
    unfold classLoop
    simp only [limitHit_none]
    cases iterate cls cur x s with
    | none => simp
    | some p =>
      obtain ⟨t, _ | why⟩ := p
      · simp only [Bool.false_eq_true, if_false, List.nil_append]
        rw [ih, ih (events := [_])]
        simp [Option.map_map, Function.comp_def]
      · simp

end Sys2Proof.Machine
end

