-- ==== Sys2Proof/Laws/Encoding.lean ====
section
/-!
SUPPORT. The two fields of a command word (30_encoding.md R92).
-/

namespace Sys2Proof

@[simp] theorem opField_commandWord (op d : Byte) : opField (commandWord op d) = op := by
  apply BitVec.eq_of_getLsbD_eq
  intro i hi
  simp only [opField, commandWord, BitVec.getLsbD_extractLsb', BitVec.getLsbD_append]
  simp [hi]

@[simp] theorem operandField_commandWord (op d : Byte) : operandField (commandWord op d) = d := by
  apply BitVec.eq_of_getLsbD_eq
  intro i hi
  simp only [operandField, commandWord, BitVec.getLsbD_extractLsb', BitVec.getLsbD_append]
  simp [hi]

theorem commandWord_fields (cw : CmdWord) : commandWord (opField cw) (operandField cw) = cw := by
  apply BitVec.eq_of_getLsbD_eq
  intro i hi
  simp only [opField, operandField, commandWord, BitVec.getLsbD_extractLsb', BitVec.getLsbD_append]
  by_cases h : i < 8
  · simp [h]
  · have h8 : i - 8 < 8 := by omega
    have h16 : 8 + (i - 8) = i := by omega
    simp [h, h8, h16]

theorem decode_commandWord (op d : Byte) : decode (commandWord op d) = decodeFields op d := by
  simp [decode]

/-- An operation without operand is accepted exactly with `d = 0x00` (30_encoding.md R95). -/
theorem noOperand_eq_ok {i j : Instr} {op d : Byte} : noOperand i op d = .ok j ↔ d = 0 ∧ i = j := by
  unfold noOperand
  split <;> simp_all

end Sys2Proof
end

