-- ==== Sys2Proof/Laws/Memory.lean ====
section
/-!
SUPPORT. The laws of a byte buffer: a read after a write, the canonical form, and that equal reads are equal buffers.
-/

namespace Sys2Proof.Machine

@[simp] theorem Memory.read_nil (a : Nat) : Memory.read [] a = unlistedByte := rfl

theorem Memory.read_cons (b : Nat) (v : Byte) (m : Memory) (a : Nat) :
    Memory.read ((b, v) :: m) a = if a = b then v else m.read a := rfl

theorem Memory.wfFrom_cons {lo b : Nat} {v : Byte} {m : Memory} :
    Memory.wfFrom lo ((b, v) :: m) = true ↔ lo ≤ b ∧ v ≠ unlistedByte ∧ Memory.wfFrom (b + 1) m = true := by
  simp [Memory.wfFrom, and_assoc]

/-- A canonical buffer stays canonical from any lower index. -/
theorem Memory.wfFrom_mono {m : Memory} {lo lo' : Nat} (h : lo' ≤ lo) (hw : Memory.wfFrom lo m = true) :
    Memory.wfFrom lo' m = true := by
  cases m with
  | nil => rfl
  | cons c m =>
    rw [Memory.wfFrom_cons] at *
    exact ⟨by omega, hw.2⟩

/-- Below its first index a canonical buffer reads as unlisted. -/
theorem Memory.read_below {m : Memory} {lo a : Nat} (hw : Memory.wfFrom lo m = true) (h : a < lo) :
    m.read a = unlistedByte := by
  induction m generalizing lo with
  | nil => rfl
  | cons c m ih =>
    rw [Memory.wfFrom_cons] at hw
    rw [Memory.read_cons, if_neg (by omega)]
    exact ih hw.2.2 (by omega)

theorem Memory.read_place_ne {a i : Nat} {v : Byte} {m : Memory} (h : i ≠ a) :
    (Memory.place a v m).read i = m.read i := by
  unfold Memory.place
  split
  · rfl
  · rw [Memory.read_cons, if_neg h]

theorem Memory.read_place_self {a : Nat} {v : Byte} {m : Memory} (h : m.read a = unlistedByte) :
    (Memory.place a v m).read a = v := by
  unfold Memory.place
  split
  · next hv => rw [h, hv]
  · rw [Memory.read_cons, if_pos rfl]

/-- A write leaves every other byte alone. -/
theorem Memory.read_write_ne {m : Memory} {a i : Nat} {v : Byte} (h : i ≠ a) :
    (m.write a v).read i = m.read i := by
  induction m with
  | nil => exact Memory.read_place_ne h
  | cons c m ih =>
    unfold Memory.write
    split
    · exact Memory.read_place_ne h
    · split
      · next hb => rw [Memory.read_place_ne h, Memory.read_cons, if_neg (by omega)]
      · rw [Memory.read_cons, Memory.read_cons, ih]

theorem Memory.read_write_self_from {m : Memory} {lo a : Nat} {v : Byte} (hw : Memory.wfFrom lo m = true) :
    (m.write a v).read a = v := by
  induction m generalizing lo with
  | nil => exact Memory.read_place_self rfl
  | cons c m ih =>
    rw [Memory.wfFrom_cons] at hw
    unfold Memory.write
    split
    · next hab =>
      exact Memory.read_place_self (Memory.read_below (lo := c.1) (Memory.wfFrom_cons.2 ⟨Nat.le_refl _, hw.2⟩) hab)
    · split
      · next hb => exact Memory.read_place_self (Memory.read_below hw.2.2 (by omega))
      · next hb => rw [Memory.read_cons, if_neg hb, ih hw.2.2]

/-- A read after a write to the same index gives the value written. -/
theorem Memory.read_write_self {m : Memory} {a : Nat} {v : Byte} (hw : m.wf = true) : (m.write a v).read a = v :=
  Memory.read_write_self_from hw

/-- What a canonical buffer reads as after a write, at every index. -/
theorem Memory.read_write {m : Memory} {a i : Nat} {v : Byte} (hw : m.wf = true) :
    (m.write a v).read i = if i = a then v else m.read i := by
  by_cases h : i = a
  · subst h; rw [if_pos rfl, Memory.read_write_self hw]
  · rw [if_neg h, Memory.read_write_ne h]

theorem Memory.wfFrom_place {lo a : Nat} {v : Byte} {m : Memory} (h : lo ≤ a) (hw : Memory.wfFrom (a + 1) m = true) :
    Memory.wfFrom lo (Memory.place a v m) = true := by
  unfold Memory.place
  split
  · exact Memory.wfFrom_mono (by omega) hw
  · next hv => exact Memory.wfFrom_cons.2 ⟨h, hv, hw⟩

theorem Memory.wfFrom_write {lo a : Nat} {v : Byte} {m : Memory} (h : lo ≤ a) (hw : Memory.wfFrom lo m = true) :
    Memory.wfFrom lo (m.write a v) = true := by
  induction m generalizing lo with
  | nil => exact Memory.wfFrom_place h rfl
  | cons c m ih =>
    rw [Memory.wfFrom_cons] at hw
    unfold Memory.write
    split
    · exact Memory.wfFrom_place h (Memory.wfFrom_cons.2 ⟨by omega, hw.2⟩)
    · split
      · next hb => exact Memory.wfFrom_place h (hb ▸ hw.2.2)
      · exact Memory.wfFrom_cons.2 ⟨hw.1, hw.2.1, ih (by omega) hw.2.2⟩

/-- A write keeps the canonical form. -/
theorem Memory.wf_write {a : Nat} {v : Byte} {m : Memory} (hw : m.wf = true) : (m.write a v).wf = true :=
  Memory.wfFrom_write (Nat.zero_le a) hw

theorem Memory.within_cons {size : Nat} {c : Host.Cell} {m : Memory} :
    Memory.within size (c :: m) = true ↔ c.1 < size ∧ Memory.within size m = true := by
  simp [Memory.within]

theorem Memory.within_place {size a : Nat} {v : Byte} {m : Memory} (h : a < size) (hm : m.within size = true) :
    (Memory.place a v m).within size = true := by
  unfold Memory.place
  split
  · exact hm
  · exact Memory.within_cons.2 ⟨h, hm⟩

/-- A write inside the buffer keeps it inside its size. -/
theorem Memory.within_write {size a : Nat} {v : Byte} {m : Memory} (h : a < size) (hm : m.within size = true) :
    (m.write a v).within size = true := by
  induction m with
  | nil => exact Memory.within_place h hm
  | cons c m ih =>
    have hm' := Memory.within_cons.1 hm
    unfold Memory.write
    split
    · exact Memory.within_place h hm
    · split
      · exact Memory.within_place h hm'.2
      · exact Memory.within_cons.2 ⟨hm'.1, ih hm'.2⟩

/-- Two canonical buffers that read alike are the same data. -/
theorem Memory.ext_of_read {m m' : Memory} {lo lo' : Nat} (hw : Memory.wfFrom lo m = true)
    (hw' : Memory.wfFrom lo' m' = true) (h : ∀ a, m.read a = m'.read a) : m = m' := by
  induction m generalizing lo lo' m' with
  | nil =>
    cases m' with
    | nil => rfl
    | cons c m' =>
      have hc := Memory.wfFrom_cons.1 hw'
      have := h c.1
      rw [Memory.read_nil, Memory.read_cons, if_pos rfl] at this
      exact absurd this.symm hc.2.1
  | cons c m ih =>
    have hc := Memory.wfFrom_cons.1 hw
    cases m' with
    | nil =>
      have := h c.1
      rw [Memory.read_nil, Memory.read_cons, if_pos rfl] at this
      exact absurd this hc.2.1
    | cons c' m' =>
      have hc' := Memory.wfFrom_cons.1 hw'
      have key : c.1 = c'.1 := by
        rcases Nat.lt_trichotomy c.1 c'.1 with hlt | heq | hgt
        · have := h c.1
          rw [Memory.read_cons, if_pos rfl, Memory.read_below (lo := c'.1) (Memory.wfFrom_cons.2 ⟨Nat.le_refl _, hc'.2⟩) hlt]
            at this
          exact absurd this hc.2.1
        · exact heq
        · have := h c'.1
          rw [Memory.read_cons (m := m'), if_pos rfl,
            Memory.read_below (lo := c.1) (Memory.wfFrom_cons.2 ⟨Nat.le_refl _, hc.2⟩) hgt] at this
          exact absurd this.symm hc'.2.1
      have hv : c.2 = c'.2 := by
        have := h c.1
        rwa [Memory.read_cons, if_pos rfl, Memory.read_cons, if_pos key] at this
      have hrest : m = m' := by
        refine ih hc.2.2 hc'.2.2 fun a => ?_
        by_cases ha : a = c.1
        · rw [Memory.read_below hc.2.2 (by omega), Memory.read_below hc'.2.2 (by omega)]
        · have := h a
          rwa [Memory.read_cons, if_neg ha, Memory.read_cons, if_neg (key ▸ ha)] at this
      rw [hrest]
      congr 1
      exact Prod.ext key hv

@[simp] theorem Memory.length_bytes (m : Memory) (n : Nat) : (m.bytes n).length = n := by
  simp [Memory.bytes]

theorem Memory.bytes_succ (m : Memory) (n : Nat) : m.bytes (n + 1) = m.bytes n ++ [m.read n] := by
  simp [Memory.bytes, List.range_succ]

/-- The first bytes depend on those bytes alone. -/
theorem Memory.bytes_congr {m m' : Memory} {n : Nat} (h : ∀ i, i < n → m.read i = m'.read i) : m.bytes n = m'.bytes n := by
  simp only [Memory.bytes]
  exact List.map_congr_left fun i hi => h i (List.mem_range.1 hi)

/-- Appending a byte at the end of the first `n`. -/
theorem Memory.bytes_write {m : Memory} {n : Nat} {v : Byte} (hw : m.wf = true) :
    (m.write n v).bytes (n + 1) = m.bytes n ++ [v] := by
  rw [Memory.bytes_succ, Memory.read_write_self hw]
  congr 1
  exact Memory.bytes_congr fun i hi => Memory.read_write_ne (by omega)

end Sys2Proof.Machine
end

