-- ==== Sys2Proof/Laws/State.lean ====
section
/-!
SUPPORT. One lemma per field per update of the state, so that no later proof unfolds a record update.
-/

namespace Sys2Proof.Machine

variable (s : State)

/-! ### setCs -/

@[simp] theorem State.setCs_cfg (u : CsUnit) : (s.setCs u).cfg = s.cfg := rfl
@[simp] theorem State.setCs_cs (u : CsUnit) : (s.setCs u).cs = u := rfl
@[simp] theorem State.setCs_enc (u : CsUnit) : (s.setCs u).enc = s.enc := rfl
@[simp] theorem State.setCs_dec (u : CsUnit) : (s.setCs u).dec = s.dec := rfl
@[simp] theorem State.setCs_evt (u : CsUnit) : (s.setCs u).evt = s.evt := rfl
@[simp] theorem State.setCs_inputs (u : CsUnit) : (s.setCs u).inputs = s.inputs := rfl
@[simp] theorem State.setCs_rsp (u : CsUnit) : (s.setCs u).rsp = s.rsp := rfl
@[simp] theorem State.setCs_txLog (u : CsUnit) : (s.setCs u).txLog = s.txLog := rfl

/-! ### setEnc -/

@[simp] theorem State.setEnc_cfg (u : EncUnit) : (s.setEnc u).cfg = s.cfg := rfl
@[simp] theorem State.setEnc_cs (u : EncUnit) : (s.setEnc u).cs = s.cs := rfl
@[simp] theorem State.setEnc_enc (u : EncUnit) : (s.setEnc u).enc = u := rfl
@[simp] theorem State.setEnc_dec (u : EncUnit) : (s.setEnc u).dec = s.dec := rfl
@[simp] theorem State.setEnc_evt (u : EncUnit) : (s.setEnc u).evt = s.evt := rfl
@[simp] theorem State.setEnc_inputs (u : EncUnit) : (s.setEnc u).inputs = s.inputs := rfl
@[simp] theorem State.setEnc_rsp (u : EncUnit) : (s.setEnc u).rsp = s.rsp := rfl
@[simp] theorem State.setEnc_txLog (u : EncUnit) : (s.setEnc u).txLog = s.txLog := rfl

/-! ### setDec -/

@[simp] theorem State.setDec_cfg (u : DecUnit) : (s.setDec u).cfg = s.cfg := rfl
@[simp] theorem State.setDec_cs (u : DecUnit) : (s.setDec u).cs = s.cs := rfl
@[simp] theorem State.setDec_enc (u : DecUnit) : (s.setDec u).enc = s.enc := rfl
@[simp] theorem State.setDec_dec (u : DecUnit) : (s.setDec u).dec = u := rfl
@[simp] theorem State.setDec_evt (u : DecUnit) : (s.setDec u).evt = s.evt := rfl
@[simp] theorem State.setDec_inputs (u : DecUnit) : (s.setDec u).inputs = s.inputs := rfl
@[simp] theorem State.setDec_rsp (u : DecUnit) : (s.setDec u).rsp = s.rsp := rfl
@[simp] theorem State.setDec_txLog (u : DecUnit) : (s.setDec u).txLog = s.txLog := rfl

/-! ### setEvt -/

@[simp] theorem State.setEvt_cfg (u : EvtUnit) : (s.setEvt u).cfg = s.cfg := rfl
@[simp] theorem State.setEvt_cs (u : EvtUnit) : (s.setEvt u).cs = s.cs := rfl
@[simp] theorem State.setEvt_enc (u : EvtUnit) : (s.setEvt u).enc = s.enc := rfl
@[simp] theorem State.setEvt_dec (u : EvtUnit) : (s.setEvt u).dec = s.dec := rfl
@[simp] theorem State.setEvt_evt (u : EvtUnit) : (s.setEvt u).evt = u := rfl
@[simp] theorem State.setEvt_inputs (u : EvtUnit) : (s.setEvt u).inputs = s.inputs := rfl
@[simp] theorem State.setEvt_rsp (u : EvtUnit) : (s.setEvt u).rsp = s.rsp := rfl
@[simp] theorem State.setEvt_txLog (u : EvtUnit) : (s.setEvt u).txLog = s.txLog := rfl

/-! ### resetUnits -/

@[simp] theorem resetUnits_cfg : (resetUnits s).cfg = s.cfg := rfl
@[simp] theorem resetUnits_cs : (resetUnits s).cs = CsUnit.reset := rfl
@[simp] theorem resetUnits_enc : (resetUnits s).enc = EncUnit.reset := rfl
@[simp] theorem resetUnits_dec : (resetUnits s).dec = DecUnit.reset := rfl
@[simp] theorem resetUnits_evt : (resetUnits s).evt = EvtUnit.reset := rfl
@[simp] theorem resetUnits_inputs : (resetUnits s).inputs = s.inputs := rfl
@[simp] theorem resetUnits_rsp : (resetUnits s).rsp = s.rsp := rfl
@[simp] theorem resetUnits_txLog : (resetUnits s).txLog = s.txLog := rfl

/-! ### resetInput -/

@[simp] theorem resetInput_cfg : (resetInput s).cfg = s.cfg := rfl
@[simp] theorem resetInput_cs : (resetInput s).cs = CsUnit.reset := rfl
@[simp] theorem resetInput_enc : (resetInput s).enc = EncUnit.reset := rfl
@[simp] theorem resetInput_dec : (resetInput s).dec = DecUnit.reset := rfl
@[simp] theorem resetInput_evt : (resetInput s).evt = EvtUnit.reset := rfl
@[simp] theorem resetInput_inputs : (resetInput s).inputs = s.inputs := rfl
@[simp] theorem resetInput_rsp : (resetInput s).rsp = none := rfl
@[simp] theorem resetInput_txLog : (resetInput s).txLog = s.txLog := rfl

end Sys2Proof.Machine
end

