-- ==== Sys2Proof/Laws/Operations.lean ====
section
/-!
SUPPORT. One lemma per shared operation that says once everything it can do; later proofs cite these instead of unfolding.
-/

namespace Sys2Proof.Machine

/-! ### Responses -/

/-- What ending an operation leaves: only the response port and the transmit history change. -/
def State.responded (s : State) (st : Status) (res : Res) (tx : List Byte) : State :=
  { s with rsp := some ⟨st.code, res, tx⟩, txLog := s.txLog ++ tx }

@[simp] theorem respond_eq (st : Status) (res : Res) (tx : List Byte) (s : State) :
    respond st res tx s = .next (s.responded st res tx) := rfl

@[simp] theorem answer_eq (res : Res) (s : State) : answer res s = .next (s.responded .ok res []) := rfl

@[simp] theorem decline_eq (st : Status) (s : State) : decline st s = .next (s.responded st 0 []) := rfl

@[simp] theorem illegalOp_eq (s : State) : illegalOp s = .next (s.responded .illegalOp 0 []) := rfl

section
variable (s : State) (st : Status) (res : Res) (tx : List Byte)

@[simp] theorem State.responded_cfg : (s.responded st res tx).cfg = s.cfg := rfl
@[simp] theorem State.responded_cs : (s.responded st res tx).cs = s.cs := rfl
@[simp] theorem State.responded_enc : (s.responded st res tx).enc = s.enc := rfl
@[simp] theorem State.responded_dec : (s.responded st res tx).dec = s.dec := rfl
@[simp] theorem State.responded_evt : (s.responded st res tx).evt = s.evt := rfl
@[simp] theorem State.responded_inputs : (s.responded st res tx).inputs = s.inputs := rfl
@[simp] theorem State.responded_rsp : (s.responded st res tx).rsp = some ⟨st.code, res, tx⟩ := rfl
@[simp] theorem State.responded_txLog : (s.responded st res tx).txLog = s.txLog ++ tx := rfl

/-- A response that sends nothing changes the response port alone. -/
theorem State.responded_nil : s.responded st res [] = { s with rsp := some ⟨st.code, res, []⟩ } := by
  simp [State.responded]

end

/-- The codes of 60_exceptions.md R271 are distinct. -/
theorem Status.code_injective {a b : Status} (h : a.code = b.code) : a = b := by
  cases a <;> cases b <;> first | rfl | exact absurd h (by decide)

/-! ### The decoder -/

/-- Everything judging a frame can say (42_frame_decoder.md R170). -/
theorem frameVerdict_cases {cap : Nat} {u : DecUnit} {st : Status} (h : frameVerdict cap u = .ok st) :
    (u.ovf = true ∧ st = .malformedOverflow) ∨
    (u.ovf = false ∧ u.cnt < 3 ∧ st = .malformedTooShort) ∨
    (u.ovf = false ∧ 3 ≤ u.cnt ∧ u.cnt ≤ cap ∧ checksumMatches u = true ∧ st = .frameOk) ∨
    (u.ovf = false ∧ 3 ≤ u.cnt ∧ u.cnt ≤ cap ∧ checksumMatches u = false ∧ st = .malformedChecksum) := by
  unfold frameVerdict at h
  cases ho : u.ovf <;> simp only [ho, Bool.false_eq_true, if_true, if_false] at h
  · by_cases h3 : u.cnt < 3
    · rw [if_pos h3] at h
      exact .inr (.inl ⟨rfl, h3, (Except.ok.inj h).symm⟩)
    · rw [if_neg h3] at h
      by_cases hc : cap < u.cnt
      · rw [if_pos hc] at h; cases h
      · rw [if_neg hc] at h
        have h := Except.ok.inj h
        cases hm : checksumMatches u <;> simp only [hm, Bool.false_eq_true, if_true, if_false] at h
        · exact .inr (.inr (.inr ⟨rfl, by omega, by omega, rfl, h.symm⟩))
        · exact .inr (.inr (.inl ⟨rfl, by omega, by omega, rfl, h.symm⟩))
  · exact .inl ⟨rfl, (Except.ok.inj h).symm⟩

/-- Judging a frame whose bytes all exist gives a verdict. -/
theorem frameVerdict_isOk {cap : Nat} {u : DecUnit} (h : u.cnt ≤ cap) : ∃ st, frameVerdict cap u = .ok st := by
  unfold frameVerdict
  split
  · exact ⟨_, rfl⟩
  · split
    · exact ⟨_, rfl⟩
    · rw [if_neg (by omega)]
      exact ⟨_, rfl⟩

/-- What a completion is made of: its status is one of the five, and `FRAME_OK` only after the checks of R170. -/
structure Completed (cap : Nat) (d : Byte) (u : DecUnit) (st : Status) : Prop where
  inEscape : u.st = .bodyFe
  notEscape : d ≠ Config.esc1
  status : st.isCompletion = true
  judged : st = .frameOk → d = Config.ed1 ∧ u.ovf = false ∧ 3 ≤ u.cnt ∧ u.cnt ≤ cap ∧ checksumMatches u = true

/-- Everything one push can do (42_frame_decoder.md R164 to R171, R177). -/
theorem pushByte_cases {cap : Nat} {d : Byte} {u u' : DecUnit} {st : Status} {res : Res}
    (h : pushByte cap d u = .ok (u', st, res)) :
    (u.st = .hunt ∧ u' = pushHunt d u ∧ st = .needMore ∧ res = 0) ∨
    (u.st = .huntFe ∧ u' = pushHuntFe d u ∧ st = .needMore ∧ res = 0) ∨
    (u.st = .body ∧ u' = pushBody cap d u ∧ st = .needMore ∧ res = 0) ∨
    (u.st = .bodyFe ∧ d = Config.esc1 ∧ u' = pushEscape cap u ∧ st = .needMore ∧ res = 0) ∨
    (Completed cap d u st ∧ u' = completeFrame st u ∧ res = completionRes st u) := by
  unfold pushByte at h
  cases hst : u.st <;> simp only [hst] at h
  · simp only [needMore, Except.ok.injEq, Prod.mk.injEq] at h
    exact .inl ⟨rfl, h.1.symm, h.2.1.symm, h.2.2.symm⟩
  · simp only [needMore, Except.ok.injEq, Prod.mk.injEq] at h
    exact .inr (.inl ⟨rfl, h.1.symm, h.2.1.symm, h.2.2.symm⟩)
  · simp only [needMore, Except.ok.injEq, Prod.mk.injEq] at h
    exact .inr (.inr (.inl ⟨rfl, h.1.symm, h.2.1.symm, h.2.2.symm⟩))
  · refine .inr (.inr (.inr ?_))
    by_cases h1 : d = Config.esc1
    · simp only [h1, if_true, needMore, Except.ok.injEq, Prod.mk.injEq] at h
      exact .inl ⟨rfl, h1, h.1.symm, h.2.1.symm, h.2.2.symm⟩
    · rw [if_neg h1] at h
      by_cases h2 : d = Config.ed1
      · rw [if_pos h2, endFrame] at h
        cases hv : frameVerdict cap u with
        | error f => rw [hv] at h; cases h
        | ok v =>
          simp only [hv, complete, Except.ok.injEq, Prod.mk.injEq] at h
          obtain ⟨rfl, rfl, rfl⟩ := h
          refine .inr ⟨⟨hst, h1, ?_, ?_⟩, rfl, rfl⟩
          · rcases frameVerdict_cases hv with ⟨_, rfl⟩ | ⟨_, _, rfl⟩ | ⟨_, _, _, _, rfl⟩ | ⟨_, _, _, _, rfl⟩ <;> rfl
          · rintro rfl
            rcases frameVerdict_cases hv with ⟨_, h⟩ | ⟨_, _, h⟩ | ⟨ho, h3, hc, hm, _⟩ | ⟨_, _, _, _, h⟩
            · cases h
            · cases h
            · exact ⟨h2, ho, h3, hc, hm⟩
            · cases h
      · simp only [if_neg h2, complete, Except.ok.injEq, Prod.mk.injEq] at h
        obtain ⟨rfl, rfl, rfl⟩ := h
        exact .inr ⟨⟨hst, h1, rfl, fun h => by cases h⟩, rfl, rfl⟩

/-- A push on a decoder whose bytes all exist never stops. -/
theorem pushByte_isOk {cap : Nat} {d : Byte} {u : DecUnit} (h : u.cnt ≤ cap) : ∃ r, pushByte cap d u = .ok r := by
  unfold pushByte
  split
  · exact ⟨_, rfl⟩
  · exact ⟨_, rfl⟩
  · exact ⟨_, rfl⟩
  · split
    · exact ⟨_, rfl⟩
    · split
      · obtain ⟨st, hv⟩ := frameVerdict_isOk h
        exact ⟨_, by rw [endFrame, hv]; rfl⟩
      · exact ⟨_, rfl⟩

/-- Everything `append` can do (42_frame_decoder.md R167). -/
theorem appendByte_cases (cap : Nat) (b : Byte) (u : DecUnit) :
    (u.cnt < cap ∧ appendByte cap b u = { u with buf := u.buf.write u.cnt b, cnt := u.cnt + 1 }) ∨
    (cap ≤ u.cnt ∧ appendByte cap b u = { u with ovf := true }) := by
  by_cases h : u.cnt < cap
  · exact .inl ⟨h, if_pos h⟩
  · exact .inr ⟨by omega, if_neg h⟩

section
variable (cap : Nat) (b : Byte) (u : DecUnit)

@[simp] theorem appendByte_st : (appendByte cap b u).st = u.st := by
  rcases appendByte_cases cap b u with ⟨_, h⟩ | ⟨_, h⟩ <;> rw [h]

@[simp] theorem appendByte_valid : (appendByte cap b u).valid = u.valid := by
  rcases appendByte_cases cap b u with ⟨_, h⟩ | ⟨_, h⟩ <;> rw [h]

@[simp] theorem appendByte_err : (appendByte cap b u).err = u.err := by
  rcases appendByte_cases cap b u with ⟨_, h⟩ | ⟨_, h⟩ <;> rw [h]

end

/-- What a push that answers a next state is: the decoder's push, its status, and nothing sent. -/
theorem execDecPush_next {d : Byte} {s t : State} (h : execDecPush d s = .next t) :
    ∃ u st res, pushByte s.cfg.decCap d s.dec = .ok (u, st, res) ∧ t = (s.setDec u).responded st res [] := by
  unfold execDecPush at h
  cases hp : pushByte s.cfg.decCap d s.dec with
  | error f => simp [hp] at h
  | ok r =>
    obtain ⟨u, st, res⟩ := r
    rw [hp] at h
    exact ⟨u, st, res, rfl, by simpa using h.symm⟩

/-- What reading a byte of the decoded frame is, when it answers a next state. -/
theorem answerBufferByte_next {i : Nat} {s t : State} (h : answerBufferByte i s = .next t) :
    i < s.cfg.decCap ∧ t = s.responded .ok (zextByte (s.dec.buf.read i)) [] := by
  unfold answerBufferByte bufferByte at h
  by_cases hi : i < s.cfg.decCap
  · simp only [if_pos hi, answer_eq, Host.Outcome.next.injEq] at h
    exact ⟨hi, h.symm⟩
  · simp [if_neg hi] at h

theorem answerBufferByte_eq {i : Nat} {s : State} (h : i < s.cfg.decCap) :
    answerBufferByte i s = .next (s.responded .ok (zextByte (s.dec.buf.read i)) []) := by
  simp [answerBufferByte, bufferByte, h]

/-! ### The event unit -/

/-- Everything a field read can answer (43_event_unpacker.md R206). -/
theorem execEvtRd_eq (d : Byte) (s : State) : ∃ st res,
    execEvtRd d s = .next (s.responded st res []) ∧ (st = .ok ∨ ((st = .indexError ∨ st = .notValid) ∧ res = 0)) := by
  unfold execEvtRd
  split
  · exact ⟨.indexError, 0, rfl, .inr ⟨.inl rfl, rfl⟩⟩
  · split
    · exact ⟨.ok, _, rfl, .inl rfl⟩
    · exact ⟨.notValid, 0, rfl, .inr ⟨.inr rfl, rfl⟩⟩

@[simp] theorem writeRef_eq (r : Reference) (s : State) : writeRef r s =
    .next ((s.setEvt { s.evt with ref := r, yearValid := false }).responded .ok 0 []) := rfl

/-! ### What a next state of any operation is -/

/-- Every operation that answers a next state is a change of registers and one response; only the decoder's meanings read a
byte that may not exist. This is the one inversion of `exec`; every whole-machine fact follows from it. -/
theorem exec_next {i : Instr} {s t : State} (h : exec i s = .next t) :
    ∃ (s' : State) (st : Status) (res : Res) (tx : List Byte), t = s'.responded st res tx ∧ s'.cfg = s.cfg ∧ s'.inputs = s.inputs ∧ s'.txLog = s.txLog ∧
      (i.unit ≠ .enc → tx = []) := by
  cases i <;> simp only [exec] at h
  case decPush d =>
    obtain ⟨u, st, res, _, rfl⟩ := execDecPush_next h
    exact ⟨_, _, _, _, rfl, rfl, rfl, rfl, fun _ => rfl⟩
  case evtRd d =>
    obtain ⟨st, res, he, _⟩ := execEvtRd_eq d s
    rw [he] at h
    cases h
    exact ⟨_, _, _, _, rfl, rfl, rfl, rfl, fun _ => rfl⟩
  case encStart d =>
    unfold execEncStart at h
    split at h <;> (cases h; exact ⟨_, _, _, _, rfl, rfl, rfl, rfl, fun hu => absurd rfl hu⟩)
  case encByte d =>
    unfold execEncByte at h
    split at h <;> (cases h; exact ⟨_, _, _, _, rfl, rfl, rfl, rfl, fun hu => absurd rfl hu⟩)
  case encEnd =>
    unfold execEncEnd at h
    split at h <;> (cases h; exact ⟨_, _, _, _, rfl, rfl, rfl, rfl, fun hu => absurd rfl hu⟩)
  case decRdcmd =>
    unfold execDecRdcmd at h
    split at h
    · obtain ⟨_, rfl⟩ := answerBufferByte_next h
      exact ⟨_, _, _, _, rfl, rfl, rfl, rfl, fun _ => rfl⟩
    · cases h; exact ⟨_, _, _, _, rfl, rfl, rfl, rfl, fun _ => rfl⟩
  case decRdlen =>
    unfold execDecRdlen at h
    split at h <;> (cases h; exact ⟨_, _, _, _, rfl, rfl, rfl, rfl, fun _ => rfl⟩)
  case decRdpay d =>
    unfold execDecRdpay at h
    split at h
    · split at h
      · cases h; exact ⟨_, _, _, _, rfl, rfl, rfl, rfl, fun _ => rfl⟩
      · obtain ⟨_, rfl⟩ := answerBufferByte_next h
        exact ⟨_, _, _, _, rfl, rfl, rfl, rfl, fun _ => rfl⟩
    · cases h; exact ⟨_, _, _, _, rfl, rfl, rfl, rfl, fun _ => rfl⟩
  case evtUnpack =>
    unfold execEvtUnpack at h
    split at h <;> (cases h; exact ⟨_, _, _, _, rfl, rfl, rfl, rfl, fun _ => rfl⟩)
  case evtYear =>
    unfold execEvtYear at h
    split at h
    · split at h <;> (cases h; exact ⟨_, _, _, _, rfl, rfl, rfl, rfl, fun _ => rfl⟩)
    · cases h; exact ⟨_, _, _, _, rfl, rfl, rfl, rfl, fun _ => rfl⟩
  all_goals (cases h; exact ⟨_, _, _, _, rfl, rfl, rfl, rfl, fun _ => rfl⟩)

end Sys2Proof.Machine
end

