-- ==== Sys2Proof/Laws/PerInstr.lean ====
section
/-!
SUPPORT. Per-instruction laws, one lemma per constructor of `Instr`.
-/

namespace Sys2Proof.Laws

/-- The operand byte does not reach the opcode half of a command word. -/
theorem operandRow_covers (op d : Byte) : (op ++ d) &&& 0xFF00#16 = op ++ 0#8 := by
  have h : (0xFF00#16) = 0xFF#8 ++ 0x00#8 := by decide
  apply BitVec.eq_of_getLsbD_eq
  intro i hi
  rw [h]
  simp only [BitVec.getLsbD_and, BitVec.getLsbD_append]
  by_cases h8 : i < 8
  · simp [h8]
  · have hones : (0xFF#8).getLsbD (i - 8) = true := by
      have hlt : i - 8 < 8 := by omega
      rw [show (0xFF#8) = BitVec.allOnes 8 from rfl, BitVec.getLsbD_allOnes]
      exact decide_eq_true hlt
    simp [h8, hones]

namespace TableRow

/-- The operation's word lies in the row of spec/opcode_table.json that carries its mnemonic. -/
def Statement (i : Instr) : Prop :=
  ∃ r ∈ opTable, r.mnemonic = i.mnemonic ∧ encode i &&& r.mask = r.pattern

theorem csInit : Statement .csInit := ⟨plainRow "CS.INIT" 0x1000, by decide, rfl, by decide⟩
theorem csByte (d : Byte) : Statement (.csByte d) :=
  ⟨operandRow "CS.BYTE" 0x1100, by decide, rfl, operandRow_covers 0x11 d⟩
theorem csRdhi : Statement .csRdhi := ⟨plainRow "CS.RDHI" 0x1200, by decide, rfl, by decide⟩
theorem csRdlo : Statement .csRdlo := ⟨plainRow "CS.RDLO" 0x1300, by decide, rfl, by decide⟩
theorem csRdacc : Statement .csRdacc := ⟨plainRow "CS.RDACC" 0x1400, by decide, rfl, by decide⟩
theorem encStart (d : Byte) : Statement (.encStart d) :=
  ⟨operandRow "ENC.START" 0x2000, by decide, rfl, operandRow_covers 0x20 d⟩
theorem encByte (d : Byte) : Statement (.encByte d) :=
  ⟨operandRow "ENC.BYTE" 0x2100, by decide, rfl, operandRow_covers 0x21 d⟩
theorem encEnd : Statement .encEnd := ⟨plainRow "ENC.END" 0x2200, by decide, rfl, by decide⟩
theorem decReset : Statement .decReset := ⟨plainRow "DEC.RESET" 0x3000, by decide, rfl, by decide⟩
theorem decPush (d : Byte) : Statement (.decPush d) :=
  ⟨operandRow "DEC.PUSH" 0x3100, by decide, rfl, operandRow_covers 0x31 d⟩
theorem decRdcmd : Statement .decRdcmd := ⟨plainRow "DEC.RDCMD" 0x3200, by decide, rfl, by decide⟩
theorem decRdlen : Statement .decRdlen := ⟨plainRow "DEC.RDLEN" 0x3300, by decide, rfl, by decide⟩
theorem decRdpay (d : Byte) : Statement (.decRdpay d) :=
  ⟨operandRow "DEC.RDPAY" 0x3400, by decide, rfl, operandRow_covers 0x34 d⟩
theorem decRdstat : Statement .decRdstat := ⟨plainRow "DEC.RDSTAT" 0x3500, by decide, rfl, by decide⟩
theorem evtClear : Statement .evtClear := ⟨plainRow "EVT.CLEAR" 0x4000, by decide, rfl, by decide⟩
theorem evtPush (d : Byte) : Statement (.evtPush d) :=
  ⟨operandRow "EVT.PUSH" 0x4100, by decide, rfl, operandRow_covers 0x41 d⟩
theorem evtUnpack : Statement .evtUnpack := ⟨plainRow "EVT.UNPACK" 0x4200, by decide, rfl, by decide⟩
theorem evtRd (d : Byte) : Statement (.evtRd d) :=
  ⟨operandRow "EVT.RD" 0x4300, by decide, rfl, operandRow_covers 0x43 d⟩
theorem evtYear : Statement .evtYear := ⟨plainRow "EVT.YEAR" 0x4400, by decide, rfl, by decide⟩
theorem evtRefyh (d : Byte) : Statement (.evtRefyh d) :=
  ⟨operandRow "EVT.REFYH" 0x4800, by decide, rfl, operandRow_covers 0x48 d⟩
theorem evtRefyl (d : Byte) : Statement (.evtRefyl d) :=
  ⟨operandRow "EVT.REFYL" 0x4900, by decide, rfl, operandRow_covers 0x49 d⟩
theorem evtRefmon (d : Byte) : Statement (.evtRefmon d) :=
  ⟨operandRow "EVT.REFMON" 0x4A00, by decide, rfl, operandRow_covers 0x4A d⟩
theorem evtRefday (d : Byte) : Statement (.evtRefday d) :=
  ⟨operandRow "EVT.REFDAY" 0x4B00, by decide, rfl, operandRow_covers 0x4B d⟩
theorem evtRefhour (d : Byte) : Statement (.evtRefhour d) :=
  ⟨operandRow "EVT.REFHOUR" 0x4C00, by decide, rfl, operandRow_covers 0x4C d⟩
theorem evtRefmin (d : Byte) : Statement (.evtRefmin d) :=
  ⟨operandRow "EVT.REFMIN" 0x4D00, by decide, rfl, operandRow_covers 0x4D d⟩
theorem sysReset : Statement .sysReset := ⟨plainRow "SYS.RESET" 0xF000, by decide, rfl, by decide⟩

end TableRow

end Sys2Proof.Laws
end

