-- ==== Sys2Proof/Tests/Slice0.lean ====
section
/-!
SUPPORT. Tests, each on one small state, with the expected values of spec/95_test_vectors.md (the vector's name stands in
each comment), and one witness per statement of the Obligations file: a concrete state and operands that meet its hypotheses.
-/

namespace Sys2Proof.Tests

open Sys2Proof Sys2Proof.Machine

/-! ### Helpers -/

/-- The state after one operation, if it goes on. -/
def did (i : Instr) (s : State) : Option State :=
  match exec i s with
  | .next t => some t
  | .fault _ => none
  | .refused _ => none

/-- The response to one operation. -/
def reply (i : Instr) (s : State) : Option Response := (did i s).bind State.rsp

/-- A buffer filled from index 0. -/
def filled (bytes : List Byte) : Memory :=
  ((List.range bytes.length).zip bytes).foldl (fun m c => m.write c.1 c.2) []

/-- A checksum engine in mid-checksum. -/
def withAcc (a : Acc) : State := { State.reset with cs := ⟨a⟩ }

/-- An open frame with its checksum so far. -/
def inFrame (a : Acc) : State := { State.reset with enc := ⟨.body, a⟩ }

/-- A decoder in a given state that has collected some bytes. -/
def collected (st : DecSt) (bytes : List Byte) : State :=
  { State.reset with dec := ⟨st, filled bytes, bytes.length, false, false, 0x00⟩ }

/-- The decoder after V17: command `8C`, payload `01`, checksum `4F 72`. -/
def holdsFrame : State := { State.reset with dec := ⟨.hunt, filled [0x8C, 0x01, 0x4F, 0x72], 4, false, true, 0x02⟩ }

/-- A decoder of capacity 14, full, whose frame is to be judged. -/
def fullDecoder (ovf : Bool) : State :=
  { State.reset with
    cfg := ⟨14⟩
    dec := ⟨.bodyFe, filled [0x8C, 0x00, 0x01, 0x02, 0x03, 0x04, 0x05, 0x06, 0x07, 0x08, 0x09, 0x0A, 0x42, 0x1A], 14, ovf,
      false, 0x00⟩ }

/-- The eight bytes of V36. -/
def record36 : List Byte := [0x20, 0x01, 0x62, 0xF2, 0x19, 0x23, 0x07, 0x00]

/-- The fields of V36. -/
def fields36 : EventFields := ⟨0, true, 1, 6, 754, 12, 34, false, 3, 0x123, 7⟩

/-- 2024-06-15 00:00, the reference of V2. -/
def ref2024 : Reference := ⟨2024, 6, 15, 0, 0⟩

/-- A loader that holds some bytes. -/
def loaded (bytes : List Byte) : State :=
  { State.reset with evt := { EvtUnit.reset with record := filled bytes, recCnt := bytes.length } }

/-- The event unit after the record of V36 is unpacked against the reference of V2. -/
def unpacked : State :=
  { State.reset with evt := ⟨filled record36, 8, true, fields36, ref2024, false, 0, false⟩ }

/-- The state at the end of program P3, without its `CMD` and `RSP` ports. -/
def afterP3 : State :=
  { State.reset with
    dec := ⟨.hunt, filled [0x8C, 0x20, 0x01, 0x62, 0xF2, 0x19, 0x23, 0x07, 0x00, 0x00, 0x12, 0xFE, 0xB3, 0x54], 14, false,
      true, 0x02⟩
    evt := ⟨filled record36, 8, true, fields36, ref2024, true, 2024, true⟩ }

/-- The state at the end of P3 after one more `0xFE` (as in P4, step 40). -/
def afterP3Fe : State := { afterP3 with dec := { afterP3.dec with st := .huntFe } }

/-! ### Well-formed words (30_encoding.md R96; the illegal words of spec/95, Part 2) -/

theorem test_unassigned_op_refused :
    wellFormedWord 0x0000 = false ∧ wellFormedWord 0x1500 = false ∧ wellFormedWord 0x2300 = false ∧
    wellFormedWord 0x3600 = false ∧ wellFormedWord 0x4500 = false ∧ wellFormedWord 0x4E00 = false ∧
    wellFormedWord 0x5000 = false ∧ wellFormedWord 0xF100 = false ∧ wellFormedWord 0xFFFF = false := by decide

theorem test_operand_on_plain_op_refused :
    wellFormedWord 0x1001 = false ∧ wellFormedWord 0x1201 = false ∧ wellFormedWord 0x14FF = false ∧
    wellFormedWord 0x2201 = false ∧ wellFormedWord 0x30FF = false ∧ wellFormedWord 0x4001 = false ∧
    wellFormedWord 0x4201 = false ∧ wellFormedWord 0x4401 = false ∧ wellFormedWord 0xF001 = false := by decide

theorem test_decoder_names_the_reason :
    decode 0x1500 = .error (.unassignedOp 0x15) ∧ decode 0x1001 = .error (.operandNotZero 0x10 0x01) := ⟨rfl, rfl⟩

theorem test_table_word_accepts : decodeTableWord 16 0x118C = some (.csByte 0x8C) := by decide
theorem test_table_word_refuses : decodeTableWord 16 0x1001 = none := by decide

/-! ### Decoding: every operation's word, written out from 30_encoding.md R94 -/

theorem test_decode_cs :
    decode 0b0001000000000000 = .ok .csInit ∧ decode 0b0001000110001100 = .ok (.csByte 0x8C) ∧
    decode 0b0001001000000000 = .ok .csRdhi ∧ decode 0b0001001100000000 = .ok .csRdlo ∧
    decode 0b0001010000000000 = .ok .csRdacc := ⟨rfl, rfl, rfl, rfl, rfl⟩

theorem test_decode_enc :
    decode 0b0010000010001100 = .ok (.encStart 0x8C) ∧ decode 0b0010000111111111 = .ok (.encByte 0xFF) ∧
    decode 0b0010001000000000 = .ok .encEnd := ⟨rfl, rfl, rfl⟩

theorem test_decode_dec :
    decode 0b0011000000000000 = .ok .decReset ∧ decode 0b0011000111111110 = .ok (.decPush 0xFE) ∧
    decode 0b0011001000000000 = .ok .decRdcmd ∧ decode 0b0011001100000000 = .ok .decRdlen ∧
    decode 0b0011010000001010 = .ok (.decRdpay 0x0A) ∧ decode 0b0011010100000000 = .ok .decRdstat :=
  ⟨rfl, rfl, rfl, rfl, rfl, rfl⟩

theorem test_decode_evt :
    decode 0b0100000000000000 = .ok .evtClear ∧ decode 0b0100000101100010 = .ok (.evtPush 0x62) ∧
    decode 0b0100001000000000 = .ok .evtUnpack ∧ decode 0b0100001100001101 = .ok (.evtRd 0x0D) ∧
    decode 0b0100010000000000 = .ok .evtYear := ⟨rfl, rfl, rfl, rfl, rfl⟩

theorem test_decode_evt_ref :
    decode 0b0100100000000111 = .ok (.evtRefyh 0x07) ∧ decode 0b0100100111101000 = .ok (.evtRefyl 0xE8) ∧
    decode 0b0100101000000110 = .ok (.evtRefmon 0x06) ∧ decode 0b0100101100001111 = .ok (.evtRefday 0x0F) ∧
    decode 0b0100110000010111 = .ok (.evtRefhour 0x17) ∧ decode 0b0100110100111011 = .ok (.evtRefmin 0x3B) :=
  ⟨rfl, rfl, rfl, rfl, rfl, rfl⟩

theorem test_decode_sys : decode 0b1111000000000000 = .ok .sysReset := rfl

theorem test_written_form : writtenForm (.csByte 0x8C) = "CS.BYTE 0x8C" ∧ writtenForm .evtYear = "EVT.YEAR" := by decide

/-! ### Unit CS -/

theorem test_csum_step_extremes :
    csumStep 0x0000 0xFF = 0x101FD ∧ csumStep 0xFFFF 0x00 = 0 ∧ csumStep 0x10000 0x00 = 0x100FE := by decide  -- S3, S5, S6

theorem test_checksum_carry : checksum [0x8C, 0x60, 0x00, 0xFE, 0x00, 0xFE, 0x55] = 0x10153 := by decide  -- V7

theorem test_csInit : (did .csInit (withAcc 0x100FD)).map (·.cs.acc) = some 0x147A := by decide  -- P1, step 1

theorem test_csByte_first : (did (.csByte 0x8C) State.reset).map (·.cs.acc) = some 0xD86E := by decide  -- S1
theorem test_csByte_bit16 : (did (.csByte 0x00) (withAcc 0x8000)).map (·.cs.acc) = some 0x100FD := by decide  -- S9

theorem test_csRdhi_masks : reply .csRdhi (withAcc 0x100FD) = some ⟨0x00, 0x00, []⟩ := by decide  -- Part 2, operations
theorem test_csRdlo : reply .csRdlo (withAcc 0x100FD) = some ⟨0x00, 0xFD, []⟩ := by decide  -- Part 2, operations
theorem test_csRdacc : reply .csRdacc (withAcc 0x100FD) = some ⟨0x00, 0x100FD, []⟩ := by decide  -- Part 2, operations

/-! ### Unit ENC -/

theorem test_encStart_escapes : reply (.encStart 0xFE) State.reset = some ⟨0x00, 0, [0xFE, 0xFE, 0xFE, 0xF0]⟩ := by decide  -- P5, 3
theorem test_encStart_open_frame : reply (.encStart 0x8C) (inFrame 0xD8E0) = some ⟨0x30, 0, []⟩ := by decide  -- P5, 4

theorem test_encByte :
    (did (.encByte 0xFF) (inFrame 0xD86E)).map (fun t => (t.enc.acc, t.txLog)) = some (0x5070, [0xFF]) := by decide  -- V1
theorem test_encByte_no_frame : reply (.encByte 0x01) State.reset = some ⟨0x30, 0, []⟩ := by decide  -- P5, 1

theorem test_encEnd : reply .encEnd (inFrame 0x3E19) = some ⟨0x00, 0, [0x3E, 0x19, 0xFE, 0x0D]⟩ := by decide  -- P2, 5
theorem test_encEnd_escapes :
    reply .encEnd (inFrame 0xFEFE) = some ⟨0x00, 0, [0xFE, 0xF0, 0xFE, 0xF0, 0xFE, 0x0D]⟩ := by decide  -- V10

theorem test_encode_frame :
    encodeFrame 0x8C [0xFE, 0x01, 0x02] = [0xFE, 0xFE, 0x8C, 0xFE, 0xF0, 0x01, 0x02, 0x41, 0x3F, 0xFE, 0x0D] := by
  decide  -- V12

/-! ### Unit DEC -/

theorem test_decPush_frame_ok :
    reply (.decPush 0x0D) (collected .bodyFe [0x8C, 0x01, 0x4F, 0x72]) = some ⟨0x02, 1, []⟩ := by decide  -- V17
theorem test_decPush_checksum :
    reply (.decPush 0x0D) (collected .bodyFe [0x8C, 0x01, 0x4F, 0x73]) = some ⟨0x10, 0, []⟩ := by decide  -- V28

theorem test_decReset : (did .decReset holdsFrame).map (fun t => statusWord t.dec) = some 0 := by decide  -- P4, 46 and 47
theorem test_decRdcmd : reply .decRdcmd holdsFrame = some ⟨0x00, 0x8C, []⟩ := by decide  -- P4, 34
theorem test_decRdcmd_not_valid : reply .decRdcmd State.reset = some ⟨0x31, 0, []⟩ := by decide  -- Part 2, reads
theorem test_decRdlen : reply .decRdlen holdsFrame = some ⟨0x00, 1, []⟩ := by decide  -- P4, 35
theorem test_decRdpay : reply (.decRdpay 0x00) holdsFrame = some ⟨0x00, 1, []⟩ := by decide  -- P4, 36
theorem test_decRdpay_index : reply (.decRdpay 0x01) holdsFrame = some ⟨0x32, 0, []⟩ := by decide  -- P4, 37
theorem test_decRdstat : reply .decRdstat holdsFrame = some ⟨0x00, 0x00040204, []⟩ := by decide  -- P4, 38

theorem test_decode_buffer :
    decodeBuffer 259 .reset [0x55, 0xFE, 0x55, 0xFE, 0xFE, 0x8C, 0x01, 0x4F, 0x72, 0xFE, 0x0D] = .ok (.frame 0x8C [0x01]) := by
  rfl  -- V26
theorem test_decode_stray_flag :
    decodeBuffer 259 .reset [0xFE, 0xFE, 0xFE, 0x8C, 0x01, 0x4F, 0x72, 0xFE, 0x0D] = .ok (.malformed .malformedBadEscape) := by
  rfl  -- V27

/-! ### Unit EVT -/

theorem test_evtClear : (did .evtClear unpacked).map (fun t => (t.evt.recCnt, t.evt.valid)) = some (0, false) := by decide  -- V38
theorem test_evtPush_ninth :
    (did (.evtPush 0xAA) (loaded record36)).map (fun t => (t.evt.recCnt, t.evt.record)) = some (9, filled record36) := by
  decide  -- P5, 30
theorem test_evtPush_eighth :
    (did (.evtPush 0xAA) (loaded (record36.take 7))).map (fun t => (t.evt.recCnt, t.evt.record.read 7)) = some (8, 0xAA) := by
  decide  -- V38
theorem test_evtUnpack : (did .evtUnpack (loaded record36)).map (·.evt.fields) = some fields36 := by decide  -- V36
theorem test_evtUnpack_short : reply .evtUnpack (loaded (record36.take 7)) = some ⟨0x20, 0, []⟩ := by decide  -- P5, 24
theorem test_evtRd_code : reply (.evtRd 0x09) unpacked = some ⟨0x00, 0x123, []⟩ := by decide  -- P3, 54
theorem test_evtRd_index : reply (.evtRd 0x0F) State.reset = some ⟨0x32, 0, []⟩ := by decide  -- P5, 15
theorem test_evtYear : reply .evtYear unpacked = some ⟨0x00, 2024, []⟩ := by decide  -- V40, row 1
theorem test_evtYear_future :
    reply .evtYear { unpacked with evt := { unpacked.evt with fields := { fields36 with ym := 1 } } } = some ⟨0x00, 2021, []⟩ := by
  decide  -- V40, row 2
theorem test_evtRefyh : (did (.evtRefyh 0x07) State.reset).map (·.evt.ref.year) = some 0x0700 := by decide  -- P3, 41
theorem test_evtRefyl :
    (did (.evtRefyl 0xE8) { State.reset with evt := { EvtUnit.reset with ref := ⟨0x0700, 0, 0, 0, 0⟩ } }).map
      (·.evt.ref.year) = some 2024 := by decide  -- P3, 42
theorem test_evtRefmon : (did (.evtRefmon 0x06) State.reset).map (·.evt.ref) = some ⟨0, 6, 0, 0, 0⟩ := by decide  -- P3, 43
theorem test_evtRefday : (did (.evtRefday 0x0F) State.reset).map (·.evt.ref) = some ⟨0, 0, 15, 0, 0⟩ := by decide  -- P3, 44
theorem test_evtRefhour : (did (.evtRefhour 0x17) State.reset).map (·.evt.ref) = some ⟨0, 0, 0, 23, 0⟩ := by decide  -- R220
theorem test_evtRefmin : (did (.evtRefmin 0x3B) State.reset).map (·.evt.ref) = some ⟨0, 0, 0, 0, 59⟩ := by decide  -- R221

/-! ### System, and the step -/

theorem test_sysReset :
    (did .sysReset afterP3).map (fun t => (t.cs, t.enc, t.dec, t.evt)) =
      some (State.reset.cs, State.reset.enc, State.reset.dec, State.reset.evt) := by decide  -- P5, last paragraph

/-- P5, steps 6 to 12: an illegal word answers `ILLEGAL_OP`. -/
theorem test_step_illegal :
    (match step { State.reset with inputs := [.command 0x2201] } with
      | .next t => t.rsp
      | _ => none) = some ⟨0x3F, 0, []⟩ := by decide

/-! ### Witnesses: states and operands that meet the hypotheses of the statements -/

/-- The invariant is met by the state at the end of P3, which holds a frame, an event and its year. -/
theorem afterP3_inv : Inv afterP3 where
  capacity := by decide
  csAcc := by decide
  encAcc := by decide
  yearNeedsEvent := by decide
  eventNeedsEight := by decide
  heldFrame := fun _ => by
    constructor
    all_goals decide
  decCount := by decide
  recCount := by decide
  bufForm := by decide
  bufSize := by decide
  recForm := by decide
  recSize := by decide

theorem afterP3_coherent : Coherent afterP3 where
  fields := by decide
  reference := by decide
  year := by decide
  dateOk := by decide
  overflow := by decide
  lastCompletion := by decide

theorem afterP3Fe_inv : Inv afterP3Fe where
  capacity := by decide
  csAcc := by decide
  encAcc := by decide
  yearNeedsEvent := by decide
  eventNeedsEight := by decide
  heldFrame := fun _ => by
    constructor
    all_goals decide
  decCount := by decide
  recCount := by decide
  bufForm := by decide
  bufSize := by decide
  recForm := by decide
  recSize := by decide

/-! #### Encoding and the step -/

theorem witness_InstructionWordsRoundTrip : decode 0x21FE = .ok (.encByte 0xFE) := rfl

theorem witness_DecoderAgreesWithOpcodeTable :
    decode 0x21FE = .ok (.encByte 0xFE) ∧ operandRow "ENC.BYTE" 0x2100 ∈ opTable ∧ 0x21FE#16 &&& 0xFF00#16 = 0x2100#16 :=
  ⟨rfl, by decide, by decide⟩

theorem witness_StepRunsThePresentedCommand :
    (∃ s : State, s.inputs = [.command 0x118C, .rst] ∧ decode 0x118C = .ok (.csByte 0x8C)) ∧ State.reset.inputs = [] :=
  ⟨⟨{ State.reset with inputs := [.command 0x118C, .rst] }, rfl, rfl⟩, rfl⟩

/-- An operand byte at its bounds, an operation without operand, and words of neither kind, each as `op ++ d`. -/
theorem witness_IllegalWordsAnswerIllegalOp :
    0x11FF#16 = 0x11#8 ++ 0xFF#8 ∧ 0x1400#16 = 0x14#8 ++ 0x00#8 ∧ 0x1401#16 = 0x14#8 ++ 0x01#8 ∧
    0x4E00#16 = 0x4E#8 ++ 0x00#8 ∧
    0x11#8 ∈ [0x11#8, 0x20#8, 0x21#8, 0x31#8, 0x34#8, 0x41#8, 0x43#8, 0x48#8, 0x49#8, 0x4A#8, 0x4B#8, 0x4C#8, 0x4D#8] ∧
    ({ State.reset with inputs := [.command 0x1401] } : State).inputs = .command 0x1401 :: [] := by decide

theorem witness_RunIsTheFoldOfOperations : afterP3.inputs = [] := rfl

/-! #### Reset -/

theorem witness_RegistersAfterReset : ({ afterP3 with inputs := [.rst] } : State).inputs = .rst :: [] := rfl

theorem witness_ResetTransmitsNothing : ({ afterP3 with inputs := [.rst, .rst] } : State).inputs = .rst :: [.rst] := rfl

/-! #### Unit CS -/

theorem witness_ChecksumStepRange : (0xFF : Nat) ≤ 0xFF := by decide

theorem witness_ChecksumEngineRefinesChecksum :
    [Instr.csInit, .decReset, .csByte 0x09].filter (concerns .cs) = csSum [0x09] ∧
    ([Instr.csByte 0x09, .encEnd].filter (concerns .cs) = [0x09].map .csByte ∧ State.reset.cs.acc = 0x147A) ∧
    (∃ rs t, runOps [.csInit, .decReset, .csByte 0x09] State.reset = (rs, .next t)) :=
  ⟨by decide, by decide, _, _, rfl⟩

/-! #### Unit ENC -/

theorem witness_EncStartOpensAFrame : State.reset.enc.st = .idle ∧ (inFrame 0x147A).enc.st ≠ .idle := by decide

theorem witness_EncByteAppendsAPayloadByte : (inFrame 0x147A).enc.st = .body ∧ State.reset.enc.st ≠ .body := by decide

theorem witness_EncEndClosesTheFrame : (inFrame 0xFEFE).enc.st = .body ∧ State.reset.enc.st ≠ .body := by decide

theorem witness_EncoderRefinesEncode :
    State.reset.enc.st = .idle ∧
    [Instr.encStart 0x1C, .csInit, .encByte 0xFE, .encEnd, .evtClear].filter (concerns .enc) = encFrame 0x1C [0xFE] ∧
    (∃ rs t, runOps [.encStart 0x1C, .csInit, .encByte 0xFE, .encEnd, .evtClear] State.reset = (rs, .next t)) :=
  ⟨by decide, by decide, _, _, rfl⟩

/-- One state pair for each clause: a frame closed, a frame opened, an operation declined on either side. -/
theorem witness_OpenFrameIsLeftOnlyByEndOrReset :
    (∃ t, exec .encEnd (inFrame 0x147A) = .next t ∧ (inFrame 0x147A).enc.st = .body ∧ t.enc.st = .idle) ∧
    (∃ t, exec (.encStart 0xFE) State.reset = .next t ∧ State.reset.enc.st = .idle ∧ t.enc.st = .body) ∧
    (∃ t, exec .encEnd State.reset = .next t) ∧ (∃ t, exec (.encStart 0xFE) (inFrame 0x147A) = .next t) :=
  ⟨⟨_, rfl, rfl, rfl⟩, ⟨_, rfl, rfl, rfl⟩, ⟨_, rfl⟩, ⟨_, rfl⟩⟩

/-! #### Unit DEC -/

theorem witness_PushWhileHunting : State.reset.dec.st = .hunt ∧ (collected .huntFe []).dec.st = .huntFe := by decide

/-- An empty buffer, a buffer with one byte left, a full one. -/
theorem witness_PushInsideAFrameAppends :
    (collected .body []).dec.st = .body ∧ (collected .bodyFe [0x8C]).dec.st = .bodyFe ∧
    (collected .body [0x8C]).dec.buf.wf = true ∧ (collected .body []).dec.cnt < (collected .body []).cfg.decCap ∧
    ¬ (fullDecoder false).dec.cnt < (fullDecoder false).cfg.decCap := by decide

/-- Overflow; too short at 0 and 2 bytes; a matching frame at 3 bytes and at the capacity; one that does not match. -/
theorem witness_EndDelimiterJudgesTheFrame :
    ((fullDecoder true).dec.st = .bodyFe ∧ (fullDecoder true).dec.ovf = true) ∧
    ((collected .bodyFe []).dec.ovf = false ∧ (collected .bodyFe []).dec.cnt < 3) ∧
    (collected .bodyFe [0x14, 0x7A]).dec.cnt < 3 ∧
    (let u := (collected .bodyFe [0x00, 0xD7, 0xE2]).dec
     u.ovf = false ∧ 3 ≤ u.cnt ∧ u.cnt ≤ State.reset.cfg.decCap ∧
      (checksum (u.buf.bytes 1) >>> 8) &&& 0xFF = (u.buf.read 1).toNat ∧
      checksum (u.buf.bytes 1) &&& 0xFF = (u.buf.read 2).toNat) ∧
    (let u := (fullDecoder false).dec
     u.ovf = false ∧ u.cnt = (fullDecoder false).cfg.decCap ∧
      (checksum (u.buf.bytes 12) >>> 8) &&& 0xFF = (u.buf.read 12).toNat ∧
      checksum (u.buf.bytes 12) &&& 0xFF = (u.buf.read 13).toNat) ∧
    (let u := (collected .bodyFe [0x00, 0xD7, 0xE3]).dec
     u.ovf = false ∧ u.cnt = 3 ∧ checksum (u.buf.bytes 1) &&& 0xFF ≠ (u.buf.read 2).toNat) := by decide

theorem witness_BadEscapeIsMalformed :
    (collected .bodyFe [0x8C]).dec.st = .bodyFe ∧ 0xFE#8 ≠ 0xF0#8 ∧ 0xFE#8 ≠ 0x0D#8 := by decide

/-- Nothing held; a frame held, with an index on either side of its length. -/
theorem witness_DecReadsAnswerTheFrame :
    State.reset.dec.valid = false ∧
    (holdsFrame.dec.valid = true ∧ 3 ≤ holdsFrame.dec.cnt ∧ holdsFrame.dec.cnt ≤ holdsFrame.cfg.decCap) ∧
    holdsFrame.dec.cnt - 3 ≤ (0x01#8).toNat ∧ (0x00#8).toNat < holdsFrame.dec.cnt - 3 := by decide

/-- A completion; and the longest frame that fits capacity 14, and one byte more. -/
theorem witness_CompletionLeavesADecoderThatDecodes :
    (∃ t, exec (.decPush 0x01) (collected .bodyFe [0x8C]) = .next t ∧ t.rsp = some ⟨0x11, 0, []⟩ ∧ 0x11#8 ≠ 0x01#8) ∧
    (State.reset.dec.st = .hunt ∧ State.reset.dec.buf.wf = true) ∧
    (List.replicate 11 0xFE#8).length + 3 ≤ (fullDecoder true).cfg.decCap ∧
    (fullDecoder true).cfg.decCap < (List.replicate 12 0xFE#8).length + 3 :=
  ⟨⟨_, rfl, rfl, by decide⟩, by decide, by decide, by decide⟩

theorem witness_DecodeInvertsEncode :
    (afterP3.dec.buf.wf = true ∧ (List.replicate 11 0xFE#8).length + 3 ≤ 14) ∧ 14 < (List.replicate 12 0xFE#8).length + 3 := by
  decide

/-- The noise of V26. -/
theorem quiet_noise : quiet [0x55, 0xFE, 0x55] := by
  refine ⟨fun i => ?_, by decide⟩
  rcases i with _ | _ | _ | i <;> simp

/-- The noise of V26 around V17, a proper prefix of it, and a command byte for each of the last three clauses. -/
theorem witness_DecodeFindsTheFrameInABuffer :
    afterP3.dec.buf.wf = true ∧ quiet [0x55, 0xFE, 0x55] ∧ [0x01#8].length + 3 ≤ 259 ∧
    ([0x55, 0xFE, 0x55, 0xFE, 0xFE, 0x8C] <+: [0x55, 0xFE, 0x55] ++ encodeFrame 0x8C [0x01] ∧
      [0x55, 0xFE, 0x55, 0xFE, 0xFE, 0x8C] ≠ [0x55, 0xFE, 0x55] ++ encodeFrame 0x8C [0x01]) ∧
    (0x8C#8 ≠ 0x0D#8 ∧ 0x8C#8 ≠ 0xF0#8) ∧ 0x0D#8 = 0x0D#8 ∧ 0xF0#8 = 0xF0#8 :=
  ⟨by decide, quiet_noise, by decide, by decide, by decide, rfl, rfl⟩

/-- A held frame ended in each of the three ways, and one that is not ended. -/
theorem witness_DecodedFrameLifetime :
    (Inv afterP3Fe ∧ afterP3Fe.dec.valid = true ∧ afterP3Fe.dec.st = .huntFe) ∧
    (∃ t, exec (.decPush 0xFE) afterP3Fe = .next t) ∧ (∃ t, exec .decReset afterP3Fe = .next t) ∧
    (∃ t, exec .sysReset afterP3Fe = .next t) ∧ (∃ t, exec (.decPush 0x55) afterP3Fe = .next t) :=
  ⟨⟨afterP3Fe_inv, by decide, by decide⟩, ⟨_, rfl⟩, ⟨_, rfl⟩, ⟨_, rfl⟩, ⟨_, rfl⟩⟩

theorem witness_DecErrRecordsTheLastCompletion :
    (∃ t, exec (.decPush 0x01) (collected .bodyFe [0x8C]) = .next t ∧ t.rsp = some ⟨0x11, 0, []⟩) ∧
    (∃ t, exec (.decPush 0x01) (collected .body [0x8C]) = .next t ∧ t.rsp = some ⟨0x01, 0, []⟩) ∧
    (∃ t r, exec .decReset holdsFrame = .next t ∧ t.rsp = some r) ∧
    (∃ t r, exec .decRdstat holdsFrame = .next t ∧ t.rsp = some r) :=
  ⟨⟨_, rfl, rfl⟩, ⟨_, rfl, rfl⟩, ⟨_, _, rfl, rfl⟩, ⟨_, _, rfl, rfl⟩⟩

/-! #### Unit EVT -/

/-- The last byte that is stored, and the first that is dropped. -/
theorem witness_EvtPushLoadsOneByte :
    (let s := loaded (record36.take 7); s.evt.recCnt < 8 ∧ s.evt.record.wf = true) ∧ 8 ≤ (loaded record36).evt.recCnt := by decide

theorem witness_EvtUnpackLatchesTheFields :
    (loaded (record36.take 7)).evt.recCnt ≠ 8 ∧ (loaded record36).evt.recCnt = 8 := by decide

theorem witness_EvtRdAnswersTheSelectedField : 0x0E < (0x0F#8).toNat := by decide

/-- Nothing unpacked; an illegal reference (the reset one, and a year below 4); a legal one. -/
theorem witness_EvtYearResolvesTheYear :
    State.reset.evt.valid = false ∧
    (unpacked.evt.valid = true ∧ ¬ (4 ≤ Reference.zero.dateTime.year ∧ validDt Reference.zero.dateTime = true)) ∧
    (validDt ⟨3, 1, 1, 0, 0⟩ = true ∧ ¬ 4 ≤ (3 : Nat)) ∧
    (unpacked.evt.valid = true ∧ 4 ≤ (2024#16).toNat ∧ validDt ⟨2024, 6, 15, 0, 0⟩ = true) := by decide

theorem witness_UnpackedFieldRanges :
    (loaded (List.replicate 8 0xFF)).evt.recCnt = 8 ∧ (∃ t, exec .evtUnpack (loaded (List.replicate 8 0xFF)) = .next t) :=
  ⟨by decide, _, rfl⟩

/-- The least and the greatest legal reference year, and a candidate that lies after the reference (V40). -/
theorem witness_ResolvedYearWindow :
    (⟨4, 1, 1, 0, 0⟩ : Reference).legal = true ∧ (⟨65535, 12, 31, 23, 59⟩ : Reference).legal = true ∧
    (let f : EventFields := ⟨0, true, 1, 1, 1, 0, 1, false, 0, 0, 0⟩
     let r : Reference := ⟨4, 1, 1, 0, 0⟩
     after (f.inYear (candidateYear f r.dateTime)) r.dateTime = true) := by decide

theorem witness_RecordLoadingRefinesUnpack :
    afterP3.evt.record.wf = true ∧ (record36.take 7).length ≠ 8 ∧ (record36 ++ [0xAA]).length ≠ 8 ∧
    record36 = [0x20, 0x01, 0x62, 0xF2, 0x19, 0x23, 0x07, 0x00] ∧ ref2024.legal = true := by decide

/-! #### The whole machine -/

theorem witness_StepKeepsTheInvariant :
    ∃ s t : State, Inv s ∧ s.inputs = [.command 0x31FE] ∧ step s = .next t :=
  ⟨{ afterP3 with inputs := [.command 0x31FE] }, _, ⟨by decide, by decide, by decide, by decide, by decide,
    fun _ => by constructor <;> decide, by decide, by decide, by decide, by decide, by decide, by decide⟩, rfl, rfl⟩

theorem witness_StepKeepsLatchedResultsCoherent :
    Inv afterP3 ∧ Coherent afterP3 ∧ (∃ t, step afterP3 = .next t) := ⟨afterP3_inv, afterP3_coherent, _, rfl⟩

theorem witness_StepNeverStops : Inv afterP3 := afterP3_inv

theorem witness_EveryOperationAnswersAListedStatus : Inv afterP3Fe := afterP3Fe_inv

theorem witness_HostErrorsChangeNothing :
    ∃ t r, exec (.decRdpay 0x0B) afterP3 = .next t ∧ t.rsp = some r ∧
      r.status ∈ [0x30#8, 0x31#8, 0x32#8, 0x33#8, 0x3F#8] := ⟨_, _, rfl, rfl, by decide⟩

/-- One state for each clause, in order, the frame counts at the bounds of their ranges. -/
theorem witness_StatusPriority :
    decode 0xFFFF = .error (.unassignedOp 0xFF) ∧
    ({ State.reset with inputs := [.command 0xFFFF] } : State).inputs = .command 0xFFFF :: [] ∧
    0x0E < (0x0F#8).toNat ∧
    ((0x0E#8).toNat ≤ 0x0E ∧ State.reset.evt.valid = false ∧ State.reset.evt.yearValid = false) ∧
    (inFrame 0x147A).enc.st = .body ∧ State.reset.enc.st = .idle ∧ State.reset.dec.valid = false ∧
    (holdsFrame.dec.valid = true ∧ holdsFrame.dec.cnt - 3 ≤ (0x01#8).toNat) ∧ State.reset.evt.valid = false ∧
    (unpacked.evt.valid = true ∧ Reference.zero.legal = false) ∧
    ((fullDecoder true).dec.st = .bodyFe ∧ (fullDecoder true).dec.ovf = true) ∧
    ((collected .bodyFe [0x14, 0x7A]).dec.st = .bodyFe ∧ (collected .bodyFe [0x14, 0x7A]).dec.ovf = false ∧
      (collected .bodyFe [0x14, 0x7A]).dec.cnt < 3) ∧
    (3 ≤ (fullDecoder false).dec.cnt ∧ (fullDecoder false).dec.cnt ≤ (fullDecoder false).cfg.decCap) ∧
    (3 ≤ (collected .bodyFe [0x00, 0xD7, 0xE2]).dec.cnt) := ⟨rfl, by decide⟩

theorem witness_ReadsChangeNothingAndRepeat :
    ∃ t rs u, exec (.decRdpay 0x08) afterP3 = .next t ∧
      (∀ j ∈ [Instr.csInit, .evtYear], concerns (Instr.decRdpay 0x08).unit j = false) ∧
      runOps [.csInit, .evtYear] t = (rs, .next u) := ⟨_, _, _, rfl, by decide, rfl⟩

theorem witness_ResponseTriple :
    (∃ t, decode 0x2201 = .error (.operandNotZero 0x22 0x01) ∧
      step { State.reset with inputs := [.command 0x2201] } = .next t) ∧
    (∃ t, exec (.decPush 0x0D) (collected .bodyFe [0x8C, 0x01, 0x4F, 0x72]) = .next t ∧ t.rsp = some ⟨0x02, 1, []⟩) ∧
    (∃ t, exec .encEnd (inFrame 0x147A) = .next t) ∧ (Instr.decPush 0x0D).unit ≠ .enc :=
  ⟨⟨_, rfl, rfl⟩, ⟨_, rfl, rfl⟩, ⟨_, rfl⟩, by decide⟩

theorem witness_UnitsAreIndependent :
    ((Instr.encStart 0x1C).unit ≠ .sys ∧ (Instr.decPush 0xFE).unit ≠ .sys ∧
      (Instr.encStart 0x1C).unit ≠ (Instr.decPush 0xFE).unit ∧ OpUnit.dec ≠ (Instr.encStart 0x1C).unit) ∧
    (SameUnit .enc State.reset afterP3 ∧ afterP3.cfg = State.reset.cfg) ∧
    (∃ si sij, exec (.encStart 0x1C) afterP3 = .next si ∧ exec (.decPush 0xFE) si = .next sij) :=
  ⟨by decide, ⟨rfl, rfl⟩, _, _, rfl, rfl⟩

/-- Two states that meet the invariant and differ in a byte of `DEC_BUF` that no operation can show. -/
theorem witness_UnwrittenContentsAreUnobservable :
    ∃ s s' t : State, Inv s ∧ Inv s' ∧ SameVisible s s' ∧ s ≠ s' ∧ step s = .next t :=
  ⟨afterP3, { afterP3 with dec := { afterP3.dec with buf := afterP3.dec.buf.write 20 0x77 } }, _, afterP3_inv,
    ⟨by decide, by decide, by decide, by decide, by decide, fun _ => by constructor <;> decide, by decide, by decide,
      by decide, by decide, by decide, by decide⟩,
    ⟨rfl, rfl, rfl, rfl, rfl, rfl, rfl, rfl, by unfold agreeBelow; decide, rfl, fun _ _ => rfl, rfl, fun _ => rfl, rfl, rfl,
      fun _ => rfl, fun _ => rfl, rfl, rfl, rfl⟩, by decide, rfl⟩

/-- An operation that no clause excludes, one that meets the clause on `ENC_ACC`, and one of every unit. -/
theorem witness_RegisterFrame :
    (∃ t, exec .decRdstat afterP3 = .next t) ∧ (∃ t, exec .encEnd afterP3 = .next t) ∧
    (∃ t, exec (.csByte 0x00) afterP3 = .next t) ∧ (∃ t, exec (.decPush 0xFE) afterP3 = .next t) ∧
    (∃ t, exec .evtYear afterP3 = .next t) ∧ (∃ t, exec (.evtRefmon 0x01) afterP3 = .next t) :=
  ⟨⟨_, rfl⟩, ⟨_, rfl⟩, ⟨_, rfl⟩, ⟨_, rfl⟩, ⟨_, rfl⟩, ⟨_, rfl⟩⟩

/-- A byte appended in `BODY`, the byte an escape pair stands for, a record byte at the last index, and none of these. -/
theorem witness_ByteBufferFrame :
    (∃ t, exec (.decPush 0x0D) (collected .body [0x8C]) = .next t ∧ (collected .body [0x8C]).dec.st = .body ∧
      0x0D#8 ≠ 0xFE#8 ∧ (collected .body [0x8C]).dec.cnt < (collected .body [0x8C]).cfg.decCap) ∧
    (∃ t, exec (.decPush 0xF0) (collected .bodyFe [0x8C]) = .next t ∧ (collected .bodyFe [0x8C]).dec.st = .bodyFe) ∧
    (∃ t, exec (.evtPush 0x07) (loaded (record36.take 7)) = .next t ∧ (loaded (record36.take 7)).evt.recCnt < 8) ∧
    (∃ t, exec (.evtPush 0x07) (loaded record36) = .next t ∧ ¬ (loaded record36).evt.recCnt < 8) ∧
    (∃ t, exec (.decPush 0x0D) (collected .bodyFe [0x8C]) = .next t ∧ Instr.decPush 0x0D ≠ .sysReset) :=
  ⟨⟨_, rfl, by decide⟩, ⟨_, rfl, by decide⟩, ⟨_, rfl, by decide⟩, ⟨_, rfl, by decide⟩, ⟨_, rfl, by decide⟩⟩

/-! #### The host's program -/

/-- The event of P3, read back by the host. -/
def eventP3 : Event := ⟨2024, 6, 1, 12, 34, 0x123, 7, 3, 0, 1⟩

/-- R257: a record that failed to decode and a record whose marker is zero end a class, and are told apart. -/
theorem test_decode_failure_told_apart :
    recordEnd 0x20 0 = some .decodeFailure ∧ recordEnd 0x00 0 = some .endOfLog ∧ recordEnd 0x00 1 = none := by decide

/-- R243, R256: `Standard` runs first. -/
theorem test_standard_first : (⟨true, true⟩ : ClassSet).inOrder = [.standard, .grade2] := by decide

/-- R255: a timeout is surfaced to the caller; a malformed frame is not told apart from an end of log. -/
theorem test_timeout_surfaced :
    (⟨State.reset, [], [(.standard, .timedOut), (.grade2, .malformed 0x10)]⟩ : RunResult).visible =
      .result [] [.standard] := by decide

/-- The limit is reached at the start; a run below the limit that the transport lets time out; and a whole retrieval. -/
theorem witness_RetrievalRespectsTheLimit :
    1 ≤ [eventP3].length ∧
    (∃ r, [eventP3].length ≤ 2 ∧ runClasses (some 2) [.standard] [] [eventP3] State.reset = some r) ∧
    (∃ r, retrieveLogs (some 2) ⟨false, true⟩ [] State.reset = some r) :=
  ⟨by decide, ⟨_, by decide, rfl⟩, _, rfl⟩

theorem witness_RetrievalAlwaysKeepsItsEvents : Inv afterP3 := afterP3_inv

theorem witness_RetrievalIsStandardThenGrade2 : Inv afterP3 := afterP3_inv

end Sys2Proof.Tests
end

section
/-!
PROOF. Reset (10_state.md R38): what `SYS.RESET` and the reset input do, and the register values they leave.
-/

namespace Sys2Proof.Machine

/-- 70_reset_and_hazards.md R300: every unit is reset, then the response is `OK`. -/
@[simp] theorem exec_sysReset (s : State) : exec .sysReset s = .next ((resetUnits s).responded .ok 0 []) := rfl

/-- 70_reset_and_hazards.md R300: the reset input is taken from the port and resets the block. -/
theorem step_rst {s : State} {rest : List Input} (h : s.inputs = .rst :: rest) :
    step s = .next (resetInput { s with inputs := rest }) := by
  unfold step
  rw [h]

/-- The values of R38 are those of the four units' reset records. Both buffers are reset to the empty list, whose every byte
reads `0x00`. -/
theorem resetValues_of_units {t : State} (hcs : t.cs = .reset) (henc : t.enc = .reset) (hdec : t.dec = .reset)
    (hevt : t.evt = .reset) : ResetValues t where
  csAcc := by rw [hcs]; rfl
  encSt := by rw [henc]; rfl
  encAcc := by rw [henc]; rfl
  decSt := by rw [hdec]; rfl
  decCnt := by rw [hdec]; rfl
  decBuf i := by rw [hdec]; exact Memory.read_nil i
  decOvf := by rw [hdec]; rfl
  decValid := by rw [hdec]; rfl
  decErr := by rw [hdec]; rfl
  recCnt := by rw [hevt]; rfl
  record i := by rw [hevt]; exact Memory.read_nil i
  evtValid := by rw [hevt]; rfl
  yearValid := by rw [hevt]; rfl
  dateOk := by rw [hevt]; rfl
  fields := by rw [hevt]; rfl
  year := by rw [hevt]; rfl
  ref := by rw [hevt]; rfl

theorem resetValues_sysReset (s : State) : ResetValues ((resetUnits s).responded .ok 0 []) :=
  resetValues_of_units (by simp) (by simp) (by simp) (by simp)

theorem resetValues_resetInput (s : State) : ResetValues (resetInput s) :=
  resetValues_of_units (resetInput_cs s) (resetInput_enc s) (resetInput_dec s) (resetInput_evt s)

theorem resetValues_reset : ResetValues State.reset := resetValues_of_units rfl rfl rfl rfl

/-- Settles O7: each of the three states holds the reset record of every unit. -/
theorem registersAfterReset : Obligations.RegistersAfterReset :=
  ⟨fun s => ⟨_, exec_sysReset s, resetValues_sysReset s⟩,
    fun _ _ h => ⟨_, step_rst h, resetValues_resetInput _⟩,
    resetValues_reset⟩

end Sys2Proof.Machine
end

section
/-!
PROOF. The units are independent (20_memory.md R71). One lemma carries it: an operation's effect on a state can be replayed
on every state that holds the same registers of the operation's unit and the same `DEC_CAP`.
-/

namespace Sys2Proof.Machine

/-! ### Replaying an operation -/

/-- Change the next state of an outcome, if it has one. -/
def mapNext (f : State → State) : Host.Outcome State Fault Refusal → Host.Outcome State Fault Refusal
  | .next t => .next (f t)
  | .fault r => .fault r
  | .refused r => .refused r

@[simp] theorem mapNext_next (f : State → State) (t : State) : mapNext f (.next t) = .next (f t) := rfl

/-- The bytes sent with the latest response (30_encoding.md R81). -/
def State.sent (t : State) : List Byte := (t.rsp.map Response.tx).getD []

/-- The state `s` with the registers of unit `u` taken from `t`; for the system operation, those of every unit. -/
def State.withUnit (s : State) (u : OpUnit) (t : State) : State :=
  match u with
  | .cs => s.setCs t.cs
  | .enc => s.setEnc t.enc
  | .dec => s.setDec t.dec
  | .evt => s.setEvt t.evt
  | .sys => { s with cs := t.cs, enc := t.enc, dec := t.dec, evt := t.evt }

/-- What an operation of unit `u` that ends in `t` leaves of the state `s`: the unit's registers and the response are those
of `t`, and the bytes of that response are sent. -/
def State.replay (s : State) (u : OpUnit) (t : State) : State :=
  { s.withUnit u t with rsp := t.rsp, txLog := s.txLog ++ t.sent }

section
variable (s : State) (u : OpUnit) (t : State)

@[simp] theorem State.replay_cfg : (s.replay u t).cfg = s.cfg := by cases u <;> rfl
@[simp] theorem State.replay_inputs : (s.replay u t).inputs = s.inputs := by cases u <;> rfl
@[simp] theorem State.replay_rsp : (s.replay u t).rsp = t.rsp := rfl
@[simp] theorem State.replay_txLog : (s.replay u t).txLog = s.txLog ++ t.sent := rfl
@[simp] theorem State.replay_sent : (s.replay u t).sent = t.sent := rfl

@[simp] theorem State.replay_cs : (s.replay u t).cs = if u = .cs ∨ u = .sys then t.cs else s.cs := by cases u <;> rfl
@[simp] theorem State.replay_enc : (s.replay u t).enc = if u = .enc ∨ u = .sys then t.enc else s.enc := by cases u <;> rfl
@[simp] theorem State.replay_dec : (s.replay u t).dec = if u = .dec ∨ u = .sys then t.dec else s.dec := by cases u <;> rfl
@[simp] theorem State.replay_evt : (s.replay u t).evt = if u = .evt ∨ u = .sys then t.evt else s.evt := by cases u <;> rfl

theorem State.replay_withInputs (l : List Input) :
    ({ s with inputs := l } : State).replay u t = { s.replay u t with inputs := l } := by cases u <;> rfl

/-- A replay leaves in its unit the registers it was given. -/
theorem sameUnit_replay_self : SameUnit u t (s.replay u t) := by cases u <;> simp [SameUnit]

end

theorem SameUnit.refl (u : OpUnit) (s : State) : SameUnit u s s := by cases u <;> simp [SameUnit]

theorem SameUnit.symm {u : OpUnit} {s t : State} (h : SameUnit u s t) : SameUnit u t s := by
  cases u <;> simp_all [SameUnit]

/-- A replay of one unit leaves every other unit's registers (20_memory.md R71). -/
theorem sameUnit_replay_of_ne {u v : OpUnit} (s t : State) (hu : u ≠ .sys) (hv : v ≠ .sys) (huv : u ≠ v) :
    SameUnit u s (s.replay v t) := by
  cases u <;> simp [SameUnit, hv, huv.symm] at hu ⊢

/-- Replays of different units can be made in either order: no register belongs to both. -/
theorem sameRegisters_replay_comm {u v : OpUnit} (s a b : State) (hu : u ≠ .sys) (hv : v ≠ .sys) (huv : u ≠ v) :
    SameRegisters ((s.replay u a).replay v b) ((s.replay v b).replay u a) := by
  constructor <;> simp [hu, hv] <;> grind

/-! ### Every operation replays -/

section
variable {s s' : State}

/-- A response without a write replays: the unit's registers are there already. -/
theorem respond_replay {u : OpUnit} (h : SameUnit u s s') (st : Status) (res : Res) (tx : List Byte) :
    respond st res tx s' = mapNext (s'.replay u) (respond st res tx s) := by
  have hs : s'.withUnit u s = s' := by
    cases u <;> simp only [SameUnit] at h <;>
      simp [State.withUnit, State.setCs, State.setEnc, State.setDec, State.setEvt, ← h]
  calc respond st res tx s' = respond st res tx (s'.withUnit u s) := by rw [hs]
    _ = mapNext (s'.replay u) (respond st res tx s) := by cases u <;> rfl

theorem answer_replay {u : OpUnit} (h : SameUnit u s s') (res : Res) :
    answer res s' = mapNext (s'.replay u) (answer res s) := respond_replay h .ok res []

theorem decline_replay {u : OpUnit} (h : SameUnit u s s') (st : Status) :
    decline st s' = mapNext (s'.replay u) (decline st s) := respond_replay h st 0 []

theorem execDecPush_replay (d : Byte) (h : SameUnit .dec s s') (hc : s'.cfg = s.cfg) :
    execDecPush d s' = mapNext (s'.replay .dec) (execDecPush d s) := by
  have hdec : s'.dec = s.dec := h
  unfold execDecPush
  rw [hdec, hc]
  cases pushByte s.cfg.decCap d s.dec <;> rfl

theorem answerBufferByte_replay (i : Nat) (h : SameUnit .dec s s') (hc : s'.cfg = s.cfg) :
    answerBufferByte i s' = mapNext (s'.replay .dec) (answerBufferByte i s) := by
  have hdec : s'.dec = s.dec := h
  unfold answerBufferByte
  rw [hdec, hc]
  cases bufferByte s.cfg.decCap s.dec i with
  | error f => rfl
  | ok b => exact answer_replay h _

theorem execDecRdcmd_replay (h : SameUnit .dec s s') (hc : s'.cfg = s.cfg) :
    execDecRdcmd s' = mapNext (s'.replay .dec) (execDecRdcmd s) := by
  have hdec : s'.dec = s.dec := h
  unfold execDecRdcmd
  rw [hdec]
  split
  · exact answerBufferByte_replay 0 h hc
  · exact decline_replay h _

theorem execDecRdlen_replay (h : SameUnit .dec s s') : execDecRdlen s' = mapNext (s'.replay .dec) (execDecRdlen s) := by
  have hdec : s'.dec = s.dec := h
  unfold execDecRdlen
  rw [hdec]
  split
  · exact answer_replay h _
  · exact decline_replay h _

theorem execDecRdpay_replay (d : Byte) (h : SameUnit .dec s s') (hc : s'.cfg = s.cfg) :
    execDecRdpay d s' = mapNext (s'.replay .dec) (execDecRdpay d s) := by
  have hdec : s'.dec = s.dec := h
  unfold execDecRdpay
  rw [hdec]
  split
  · split
    · exact decline_replay h _
    · exact answerBufferByte_replay _ h hc
  · exact decline_replay h _

theorem execEvtUnpack_replay (h : SameUnit .evt s s') :
    execEvtUnpack s' = mapNext (s'.replay .evt) (execEvtUnpack s) := by
  have hevt : s'.evt = s.evt := h
  unfold execEvtUnpack
  rw [hevt]
  split <;> rfl

theorem execEvtRd_replay (d : Byte) (h : SameUnit .evt s s') :
    execEvtRd d s' = mapNext (s'.replay .evt) (execEvtRd d s) := by
  have hevt : s'.evt = s.evt := h
  unfold execEvtRd
  rw [hevt]
  match selectField s.evt d with
  | none => exact decline_replay h _
  | some (true, _) => exact answer_replay h _
  | some (false, _) => exact decline_replay h _

theorem execEvtYear_replay (h : SameUnit .evt s s') : execEvtYear s' = mapNext (s'.replay .evt) (execEvtYear s) := by
  have hevt : s'.evt = s.evt := h
  unfold execEvtYear
  rw [hevt]
  split
  · split
    · rfl
    · exact decline_replay h _
  · exact decline_replay h _

/-- 20_memory.md R71: an operation depends only on its unit's registers and on `DEC_CAP`, and writes only those registers.
An operation whose meaning has no branch ends alike on both states once their unit is one and the same; so does an encoder
operation in each encoder state. -/
theorem exec_replay {i : Instr} (h : SameUnit i.unit s s') (hc : s'.cfg = s.cfg) :
    exec i s' = mapNext (s'.replay i.unit) (exec i s) := by
  cases i
  case decPush d => exact execDecPush_replay d h hc
  case decRdcmd => exact execDecRdcmd_replay h hc
  case decRdlen => exact execDecRdlen_replay h
  case decRdpay d => exact execDecRdpay_replay d h hc
  case evtUnpack => exact execEvtUnpack_replay h
  case evtRd d => exact execEvtRd_replay d h
  case evtYear => exact execEvtYear_replay h
  case sysReset => rfl
  all_goals
    obtain ⟨cfg, cs, enc, dec, evt, inputs, rsp, txLog⟩ := s
    obtain ⟨cfg', cs', enc', dec', evt', inputs', rsp', txLog'⟩ := s'
  case encStart d | encByte d | encEnd =>
    obtain rfl : enc' = enc := h
    obtain ⟨st, acc⟩ := enc'
    cases st <;> rfl
  case csInit | csByte d | csRdhi | csRdlo | csRdacc =>
    obtain rfl : cs' = cs := h
    rfl
  case decReset | decRdstat =>
    obtain rfl : dec' = dec := h
    rfl
  all_goals
    obtain rfl : evt' = evt := h
    rfl

end

/-- The next state of an operation is the operation's replay on the state it started from. -/
theorem exec_next_replay {i : Instr} {s t : State} (h : exec i s = .next t) : s.replay i.unit t = t := by
  have hr := exec_replay (i := i) (.refl i.unit s) rfl
  rw [h] at hr
  exact (Host.Outcome.next.inj hr).symm

/-- Only encoder operations send (20_memory.md R71). -/
theorem sent_eq_nil {i : Instr} {s t : State} (h : exec i s = .next t) (hu : i.unit ≠ .enc) : t.sent = [] := by
  obtain ⟨s', st, res, tx, rfl, _, _, _, htx⟩ := exec_next h
  exact htx hu

theorem exec_cfg {i : Instr} {s t : State} (h : exec i s = .next t) : t.cfg = s.cfg := by
  rw [← exec_next_replay h, State.replay_cfg]

/-- An operation leaves the registers of every other unit (20_memory.md R71). -/
theorem exec_sameUnit {i : Instr} {u : OpUnit} {s t : State} (h : exec i s = .next t) (hi : i.unit ≠ .sys)
    (hu : u ≠ .sys) (hui : u ≠ i.unit) : SameUnit u s t := by
  rw [← exec_next_replay h]
  exact sameUnit_replay_of_ne s t hu hi hui

/-- An operation that answers a next state answers alike on every state that holds the same unit and capacity. -/
theorem exec_next_of_sameUnit {i : Instr} {s s' t : State} (h : exec i s = .next t) (hu : SameUnit i.unit s s')
    (hc : s'.cfg = s.cfg) : exec i s' = .next (s'.replay i.unit t) := by
  rw [exec_replay hu hc, h, mapNext_next]

/-- Operations of different units give the same registers, responses and transmit history in either order
(20_memory.md R71). -/
theorem exec_commute {i j : Instr} {s si sij : State} (hi : i.unit ≠ .sys) (hj : j.unit ≠ .sys) (hij : i.unit ≠ j.unit)
    (hsi : exec i s = .next si) (hsij : exec j si = .next sij) :
    ∃ sj sji, exec j s = .next sj ∧ exec i sj = .next sji ∧ SameRegisters sij sji ∧ sji.txLog = sij.txLog ∧
      sj.rsp = sij.rsp ∧ sji.rsp = si.rsp := by
  have hsj : exec j s = .next (s.replay j.unit sij) :=
    exec_next_of_sameUnit hsij (exec_sameUnit hsi hi hj hij.symm).symm (exec_cfg hsi).symm
  have hsji : exec i (s.replay j.unit sij) = .next ((s.replay j.unit sij).replay i.unit si) :=
    exec_next_of_sameUnit hsi (sameUnit_replay_of_ne s sij hi hj hij) (s.replay_cfg _ _)
  have hsij' : (s.replay i.unit si).replay j.unit sij = sij := by rw [exec_next_replay hsi, exec_next_replay hsij]
  have hsent : si.sent = [] ∨ sij.sent = [] := by
    by_cases he : i.unit = .enc
    · exact .inr (sent_eq_nil hsij (he ▸ hij.symm))
    · exact .inl (sent_eq_nil hsi he)
  refine ⟨_, _, hsj, hsji, ?_, ?_, rfl, rfl⟩
  · have hr := sameRegisters_replay_comm s si sij hi hj hij
    rwa [hsij'] at hr
  · rw [← hsij']
    rcases hsent with h | h <;> simp [h]

/-- Settles O54: every operation replays (`exec_replay`), and replays of different units commute. -/
theorem unitsAreIndependent : Obligations.UnitsAreIndependent :=
  ⟨fun _ _ _ _ h hi hu hui => exec_sameUnit h hi hu hui,
    fun _ _ _ _ _ hu hc h => ⟨_, exec_next_of_sameUnit h hu hc, sameUnit_replay_self .., rfl⟩,
    fun _ _ _ _ _ hi hj hij hsi hsij => exec_commute hi hj hij hsi hsij,
    fun s => ⟨_, exec_sysReset s, rfl, rfl, rfl, rfl⟩⟩

end Sys2Proof.Machine
end

section
/-!
PROOF. Running presented words is the fold of the operation rules (20_memory.md R70).
-/

namespace Sys2Proof

/-- The word of an operation decodes to it (30_encoding.md R94 to R97). -/
@[simp] theorem decode_encode (i : Instr) : decode (encode i) = .ok i := by
  cases i <;> rw [encode, decode_commandWord] <;> rfl

namespace Machine

/-- A step takes the presented word of an operation and executes it (20_memory.md R70). -/
theorem step_encode (i : Instr) (s : State) (rest : List Input) :
    step { s with inputs := .command (encode i) :: rest } = exec i { s with inputs := rest } := by
  simp [step, runCommand]

/-- No operation reads or takes what the host presents after it. -/
theorem exec_withInputs (i : Instr) (s : State) (l : List Input) :
    exec i { s with inputs := l } = mapNext (fun t => { t with inputs := l }) (exec i s) := by
  have hu : SameUnit i.unit s { s with inputs := l } := .refl i.unit s
  rw [exec_replay hu rfl]
  cases h : exec i s with
  | next t => rw [mapNext_next, mapNext_next, State.replay_withInputs, exec_next_replay h]
  | fault f => rfl
  | refused r => rfl

theorem exec_inputs {i : Instr} {s t : State} (h : exec i s = .next t) : t.inputs = s.inputs := by
  rw [← exec_next_replay h, State.replay_inputs]

section
variable {M : Host.Core} {s : M.State} (k : Nat)

theorem run_of_step_next {t : M.State} (h : M.step s = .next t) : M.run (k + 1) s = M.run k t := by
  rw [Host.Core.run, h]

theorem run_of_step_fault {r : M.Fault} (h : M.step s = .fault r) : M.run (k + 1) s = .fault r := by
  rw [Host.Core.run, h]

theorem run_of_step_refused {r : M.Refusal} (h : M.step s = .refused r) : M.run (k + 1) s = .refused r := by
  rw [Host.Core.run, h]

end

/-- Settles O6, by induction on the sequence: each step takes one word, and the words still presented change nothing. -/
theorem runIsTheFoldOfOperations : Obligations.RunIsTheFoldOfOperations := by
  intro is
  induction is with
  | nil =>
    intro s hs
    obtain ⟨cfg, cs, enc, dec, evt, inputs, rsp, txLog⟩ := s
    subst hs
    rfl
  | cons i is ih =>
    intro s hs
    have hstep : core.step { s with inputs := (i :: is).map fun i => .command (encode i) } =
        mapNext (fun t => { t with inputs := is.map fun i => .command (encode i) }) (exec i s) :=
      (step_encode i s _).trans (exec_withInputs i s _)
    rw [runOps]
    cases h : exec i s with
    | next t =>
      rw [h] at hstep
      exact (run_of_step_next _ hstep).trans (ih t ((exec_inputs h).trans hs))
    | fault f =>
      rw [h] at hstep
      exact run_of_step_fault _ hstep
    | refused r =>
      rw [h] at hstep
      exact run_of_step_refused _ hstep

end Machine

end Sys2Proof
end

section
/-!
PROOF. Command words that are no operation (30_encoding.md R95, R96).
-/

namespace Sys2Proof

/-! ### Which words are operations -/

/-- The opcodes that take an operand (30_encoding.md R94). -/
def operandOps : List Byte :=
  [0x11, 0x20, 0x21, 0x31, 0x34, 0x41, 0x43, 0x48, 0x49, 0x4A, 0x4B, 0x4C, 0x4D]

/-- The opcodes that take none (30_encoding.md R94). -/
def plainOps : List Byte :=
  [0x10, 0x12, 0x13, 0x14, 0x22, 0x30, 0x32, 0x33, 0x35, 0x40, 0x42, 0x44, 0xF0]

/-- Every opcode with an operand decodes, whatever the operand byte. -/
theorem exists_decodeFields_of_mem_operandOps {op : Byte} (h : op ∈ operandOps) (d : Byte) :
    ∃ i, decodeFields op d = .ok i := by
  unfold operandOps at h
  fin_cases h <;> exact ⟨_, rfl⟩

/-- Every opcode without an operand decodes with `d = 0x00` (30_encoding.md R95). -/
theorem exists_decodeFields_of_mem_plainOps {op : Byte} (h : op ∈ plainOps) : ∃ i, decodeFields op 0 = .ok i := by
  unfold plainOps at h
  fin_cases h <;> exact ⟨_, rfl⟩

/-- What the decoder takes is encoded by the same two fields (30_encoding.md R92 to R95). The last branch is an unassigned
opcode; the branches listed after it are the opcodes with an operand, and those left test `d`. -/
theorem encode_of_decodeFields {op d : Byte} {i : Instr} (h : decodeFields op d = .ok i) :
    encode i = commandWord op d := by
  unfold decodeFields at h
  split at h
  case h_27 => cases h
  all_goals
    rename_i hop
    obtain ⟨-, rfl⟩ := BitVec.toNat_eq_nat.1 hop
  case h_2 | h_6 | h_7 | h_10 | h_13 | h_16 | h_18 | h_20 | h_21 | h_22 | h_23 | h_24 | h_25 =>
    cases h
    rfl
  all_goals
    obtain ⟨rfl, rfl⟩ := noOperand_eq_ok.1 h
    rfl

/-- The two fields of an operation's word: an opcode with an operand, or one without and `0x00`. -/
theorem fields_encode (i : Instr) :
    opField (encode i) ∈ operandOps ∨ opField (encode i) ∈ plainOps ∧ operandField (encode i) = 0 := by
  cases i <;> simp [encode, operandOps, plainOps]

/-- A word decodes exactly when its opcode takes an operand, or takes none and `d = 0x00` (30_encoding.md R94, R95). -/
theorem exists_decode_commandWord_iff (op d : Byte) :
    (∃ i, decode (commandWord op d) = .ok i) ↔ op ∈ operandOps ∨ op ∈ plainOps ∧ d = 0 := by
  rw [decode_commandWord]
  constructor
  · rintro ⟨i, h⟩
    have hi := fields_encode i
    rwa [encode_of_decodeFields h, opField_commandWord, operandField_commandWord] at hi
  · rintro (h | ⟨h, rfl⟩)
    · exact exists_decodeFields_of_mem_operandOps h d
    · exact exists_decodeFields_of_mem_plainOps h

namespace Machine

/-! ### The answer to any other word -/

/-- A step on a word that does not decode answers `ILLEGAL_OP` and takes the word from the port (30_encoding.md R96). -/
theorem step_of_decode_error {cw : CmdWord} {e : DecodeError} {rest : List Input} {s : State}
    (he : decode cw = .error e) (hs : s.inputs = .command cw :: rest) :
    step s = .next (({ s with inputs := rest } : State).responded .illegalOp 0 []) := by
  simp [step, runCommand, hs, he]

/-- Settles O5, by the opcodes that decode (`exists_decode_commandWord_iff`). -/
theorem illegalWordsAnswerIllegalOp : Obligations.IllegalWordsAnswerIllegalOp := by
  rintro _ op d rfl
  refine ⟨(exists_decode_commandWord_iff op d).2, fun hn s rest hs => ?_⟩
  cases hd : decode (op ++ d) with
  | ok i => exact absurd ((exists_decode_commandWord_iff op d).1 ⟨i, hd⟩) hn
  | error e => exact (step_of_decode_error hd hs).trans (congrArg _ (State.responded_nil ..))

end Machine

end Sys2Proof
end

section
/-!
PROOF. The response triple (30_encoding.md R81, 20_memory.md R74). What `exec_next` leaves open is `res`: with which status an
operation may answer a value.
-/

namespace Sys2Proof.Machine

/-- The status with which an operation may answer a `res` other than 0; `none` when its `res` is always 0
(30_encoding.md R81). -/
def valueStatus : Instr → Option Status
  | .csRdhi | .csRdlo | .csRdacc | .decRdcmd | .decRdlen | .decRdpay _ | .decRdstat | .evtRd _ | .evtYear => some .ok
  | .decPush _ => some .frameOk
  | _ => none

/-- An outcome carries a `res` other than 0 only with the status `v`. -/
def ValueOnlyWith (v : Option Status) (o : Host.Outcome State Fault Refusal) : Prop :=
  ∀ (s : State) (st : Status) (res : Res) (tx : List Byte), o = .next (s.responded st res tx) → res ≠ 0 → v = some st

section
variable {v : Option Status} {st : Status} {res : Res} {tx : List Byte} {s : State}

theorem valueOnlyWith_respond (h : res ≠ 0 → v = some st) : ValueOnlyWith v (respond st res tx s) := by
  intro s' st' res' tx' ho hres
  have hrsp := congrArg State.rsp (Host.Outcome.next.inj ho)
  obtain ⟨hcode, rfl, -⟩ : st.code = st'.code ∧ res = res' ∧ tx = tx' := by simpa using hrsp
  rw [← Status.code_injective hcode]
  exact h hres

theorem valueOnlyWith_respond_zero : ValueOnlyWith v (respond st 0 tx s) :=
  valueOnlyWith_respond fun h => absurd rfl h

theorem valueOnlyWith_decline : ValueOnlyWith v (decline st s) := valueOnlyWith_respond_zero

theorem valueOnlyWith_answer : ValueOnlyWith (some .ok) (answer res s) := valueOnlyWith_respond fun _ => rfl

theorem valueOnlyWith_fault (f : Fault) : ValueOnlyWith v (.fault f) := by
  intro _ _ _ _ h
  cases h

end

/-- `res` is the payload length on `FRAME_OK`, else 0 (42_frame_decoder.md R164). -/
theorem completionRes_of_ne_frameOk {st : Status} (h : st ≠ .frameOk) (u : DecUnit) : completionRes st u = 0 := if_neg h

/-- A push answers a value only when it completes a good frame (42_frame_decoder.md R164). -/
theorem pushByte_frameOk_of_res_ne_zero {cap : Nat} {d : Byte} {u u' : DecUnit} {st : Status} {res : Res}
    (h : pushByte cap d u = .ok (u', st, res)) (hres : res ≠ 0) : st = .frameOk := by
  rcases pushByte_cases h with ⟨_, _, _, h0⟩ | ⟨_, _, _, h0⟩ | ⟨_, _, _, h0⟩ | ⟨_, _, _, _, h0⟩ | ⟨_, _, hc⟩
  case inr.inr.inr.inr =>
    by_contra hst
    exact hres (hc.trans (completionRes_of_ne_frameOk hst u))
  all_goals exact absurd h0 hres

section
variable (s : State)

theorem execDecPush_valueOnlyWith (d : Byte) : ValueOnlyWith (some .frameOk) (execDecPush d s) := by
  unfold execDecPush
  split
  next h => exact valueOnlyWith_respond fun hres => congrArg some (pushByte_frameOk_of_res_ne_zero h hres).symm
  next => exact valueOnlyWith_fault _

theorem answerBufferByte_valueOnlyWith (i : Nat) : ValueOnlyWith (some .ok) (answerBufferByte i s) := by
  unfold answerBufferByte
  split
  · exact valueOnlyWith_answer
  · exact valueOnlyWith_fault _

theorem execDecRdcmd_valueOnlyWith : ValueOnlyWith (some .ok) (execDecRdcmd s) := by
  unfold execDecRdcmd
  split
  · exact answerBufferByte_valueOnlyWith s 0
  · exact valueOnlyWith_decline

theorem execDecRdlen_valueOnlyWith : ValueOnlyWith (some .ok) (execDecRdlen s) := by
  unfold execDecRdlen
  split
  · exact valueOnlyWith_answer
  · exact valueOnlyWith_decline

theorem execDecRdpay_valueOnlyWith (d : Byte) : ValueOnlyWith (some .ok) (execDecRdpay d s) := by
  unfold execDecRdpay
  split
  · split
    · exact valueOnlyWith_decline
    · exact answerBufferByte_valueOnlyWith s _
  · exact valueOnlyWith_decline

theorem execEvtRd_valueOnlyWith (d : Byte) : ValueOnlyWith (some .ok) (execEvtRd d s) := by
  obtain ⟨st, res, he, rfl | ⟨_, rfl⟩⟩ := execEvtRd_eq d s <;> rw [he]
  · exact valueOnlyWith_answer
  · exact valueOnlyWith_decline

theorem execEvtYear_valueOnlyWith : ValueOnlyWith (some .ok) (execEvtYear s) := by
  unfold execEvtYear
  split
  · split
    · exact valueOnlyWith_respond fun _ => rfl
    · exact valueOnlyWith_decline
  · exact valueOnlyWith_decline

/-- 30_encoding.md R81: `res` is 0 but with the status of `valueStatus`. The encoder's operations and `EVT.UNPACK` answer 0 on
each of their two ways; an operation that is not named has one way. -/
theorem exec_valueOnlyWith (i : Instr) : ValueOnlyWith (valueStatus i) (exec i s) := by
  cases i
  case decPush d => exact execDecPush_valueOnlyWith s d
  case decRdcmd => exact execDecRdcmd_valueOnlyWith s
  case decRdlen => exact execDecRdlen_valueOnlyWith s
  case decRdpay d => exact execDecRdpay_valueOnlyWith s d
  case evtRd d => exact execEvtRd_valueOnlyWith s d
  case evtYear => exact execEvtYear_valueOnlyWith s
  case csRdhi | csRdlo | csRdacc | decRdstat => exact valueOnlyWith_answer
  case encStart d | encByte d | encEnd | evtUnpack =>
    simp only [exec, execEncStart, execEncByte, execEncEnd, execEvtUnpack]
    split <;> exact valueOnlyWith_respond_zero
  all_goals exact valueOnlyWith_respond_zero

end

/-- Every status has a code of 60_exceptions.md R271. -/
theorem Status.code_mem (st : Status) : st.code ∈
    [0x00#8, 0x01#8, 0x02#8, 0x10#8, 0x11#8, 0x12#8, 0x13#8, 0x20#8, 0x30#8, 0x31#8, 0x32#8, 0x33#8, 0x3F#8] := by
  cases st <;> decide

/-- Settles O53: `exec_next` gives the status, `tx` and the history, `exec_valueOnlyWith` gives `res`. -/
theorem responseTriple : Obligations.ResponseTriple := by
  refine ⟨fun i s t h => ?_, fun cw e rest s t he hs h => ?_⟩
  · obtain ⟨s', st, res, tx, rfl, _, _, hlog, htx⟩ := exec_next h
    refine ⟨_, rfl, st.code_mem, fun hres => ?_, htx, congrArg (· ++ tx) hlog⟩
    have hv : valueStatus i = some st := exec_valueOnlyWith s i s' st res tx h hres
    cases i <;> cases hv <;> rfl
  · obtain rfl := Host.Outcome.next.inj ((step_of_decode_error he hs).symm.trans h)
    exact ⟨rfl, List.append_nil _⟩

end Sys2Proof.Machine
end

section
/-!
PROOF. Unit CS (40_checksum.md R127 to R131): what each of its five operations leaves, and the two byte reads as bits of
`CS_ACC`.
-/

namespace Sys2Proof.Machine

/-! ### The operations -/

/-- An `OK` that sends nothing, in the form of the spec's `respond(OK, res, [])`: the response port alone changes. -/
theorem next_responded_ok (s : State) (res : Res) :
    (.next (s.responded .ok res []) : Host.Outcome State Fault Refusal) =
      .next { s with rsp := some ⟨0x00, res, []⟩ } :=
  congrArg _ (State.responded_nil ..)

section
variable (s : State)

@[simp] theorem exec_csInit : exec .csInit s = .next ((s.setCs ⟨accInit⟩).responded .ok 0 []) := rfl

@[simp] theorem exec_csByte (d : Byte) :
    exec (.csByte d) s = .next ((s.setCs ⟨accStep s.cs.acc d⟩).responded .ok 0 []) := rfl

@[simp] theorem exec_csRdhi :
    exec .csRdhi s = .next (s.responded .ok (zextByte (crcHi s.cs.acc.toNat)) []) := rfl

@[simp] theorem exec_csRdlo :
    exec .csRdlo s = .next (s.responded .ok (zextByte (crcLo s.cs.acc.toNat)) []) := rfl

@[simp] theorem exec_csRdacc : exec .csRdacc s = .next (s.responded .ok s.cs.acc []) := rfl

end

/-! ### The checksum bytes as bits of the accumulator (40_checksum.md R123) -/

theorem toNat_and_byteMask (a : Acc) : (a &&& 0xFF).toNat = a.toNat % 256 := by
  rw [BitVec.toNat_and]
  exact Nat.and_two_pow_sub_one_eq_mod a.toNat 8

@[simp] theorem zextByte_toNat (b : Byte) : (zextByte b).toNat = b.toNat := by
  rw [zextByte, BitVec.toNat_setWidth]
  omega

theorem zextByte_crcLo (a : Acc) : zextByte (crcLo a.toNat) = a &&& 0xFF := by
  apply BitVec.eq_of_toNat_eq
  rw [zextByte_toNat, crcLo_toNat, toNat_and_byteMask]

theorem zextByte_crcHi (a : Acc) : zextByte (crcHi a.toNat) = (a >>> 8) &&& 0xFF := by
  apply BitVec.eq_of_toNat_eq
  rw [zextByte_toNat, crcHi_toNat, toNat_and_byteMask, BitVec.toNat_ushiftRight, Nat.shiftRight_eq_div_pow]

/-! ### The obligations -/

/-- Settles O10: `csumStep` is the formula by definition, `accStep` holds its sum without a loss (`accStep_toNat`), and the
operation writes that alone. -/
theorem csByteFoldsOneByte : Obligations.CsByteFoldsOneByte :=
  ⟨fun _ _ => rfl, fun d s => ⟨decode_encode (.csByte d), _, exec_csByte s d, State.responded_nil .., accStep_toNat ..⟩⟩

/-- Settles O9: the value written is `accInit`, and the response sends nothing. -/
theorem csInitStartsAChecksum : Obligations.CsInitStartsAChecksum :=
  ⟨decode_encode .csInit, fun s => (exec_csInit s).trans (next_responded_ok ..)⟩

/-- Settles O11: the values answered are bits of `CS_ACC` (`zextByte_crcHi`, `zextByte_crcLo`), and nothing is sent. -/
theorem csReadsAnswerTheAccumulator : Obligations.CsReadsAnswerTheAccumulator := by
  refine ⟨decode_encode .csRdhi, decode_encode .csRdlo, decode_encode .csRdacc, fun s => ⟨?_, ?_, ?_⟩⟩
  · rw [exec_csRdhi, zextByte_crcHi, next_responded_ok]
  · rw [exec_csRdlo, zextByte_crcLo, next_responded_ok]
  · rw [exec_csRdacc, next_responded_ok]

end Sys2Proof.Machine
end

section
/-!
PROOF. Unit ENC (41_frame_encoder.md R143 to R145): what each of its three operations leaves in either encoder state, and the
two checksum bytes it sends as bits of `ENC_ACC`.
-/

namespace Sys2Proof.Machine

/-! ### The operations -/

theorem EncSt.ne_idle_iff {st : EncSt} : st ≠ .idle ↔ st = .body := by cases st <;> decide

theorem EncSt.ne_body_iff {st : EncSt} : st ≠ .body ↔ st = .idle := by cases st <;> decide

section
variable {s : State}

theorem exec_encStart_of_idle (h : s.enc.st = .idle) (d : Byte) : exec (.encStart d) s =
    .next ((s.setEnc ⟨.body, accStep accInit d⟩).responded .ok 0 (startDelimiter ++ esc d)) := by
  simp [exec, execEncStart, h]

theorem exec_encStart_of_body (h : s.enc.st = .body) (d : Byte) :
    exec (.encStart d) s = .next (s.responded .seqError 0 []) := by
  simp [exec, execEncStart, h]

theorem exec_encByte_of_body (h : s.enc.st = .body) (d : Byte) : exec (.encByte d) s =
    .next ((s.setEnc ⟨.body, accStep s.enc.acc d⟩).responded .ok 0 (esc d)) := by
  simp [exec, execEncByte, h]

theorem exec_encByte_of_idle (h : s.enc.st = .idle) (d : Byte) :
    exec (.encByte d) s = .next (s.responded .seqError 0 []) := by
  simp [exec, execEncByte, h]

theorem exec_encEnd_of_body (h : s.enc.st = .body) : exec .encEnd s =
    .next ((s.setEnc ⟨.idle, s.enc.acc⟩).responded .ok 0
      (esc (crcHi s.enc.acc.toNat) ++ esc (crcLo s.enc.acc.toNat) ++ endDelimiter)) := by
  simp [exec, execEncEnd, h]

theorem exec_encEnd_of_idle (h : s.enc.st = .idle) : exec .encEnd s = .next (s.responded .seqError 0 []) := by
  simp [exec, execEncEnd, h]

end

/-- A `SEQ_ERROR` in the form of the spec's `respond(SEQ_ERROR, 0, [])`: the response port alone changes. -/
theorem next_responded_seqError (s : State) :
    (.next (s.responded .seqError 0 []) : Host.Outcome State Fault Refusal) = .next { s with rsp := some ⟨0x30, 0, []⟩ } :=
  congrArg _ (State.responded_nil ..)

/-! ### The checksum bytes as slices of the accumulator (41_frame_encoder.md R145) -/

theorem crcHi_acc (a : Acc) : crcHi a.toNat = (a >>> 8).setWidth 8 := by
  apply BitVec.eq_of_toNat_eq
  rw [crcHi_toNat, BitVec.toNat_setWidth, BitVec.toNat_ushiftRight, Nat.shiftRight_eq_div_pow]

theorem crcLo_acc (a : Acc) : crcLo a.toNat = a.setWidth 8 := by
  apply BitVec.eq_of_toNat_eq
  rw [crcLo_toNat, BitVec.toNat_setWidth]

/-! ### The obligations -/

/-- Settles O16, by the encoder state: a frame is opened in `IDLE` (`exec_encStart_of_idle`, the spec's state and bytes by
definition) and declined in `BODY`. -/
theorem encStartOpensAFrame : Obligations.EncStartOpensAFrame := fun d s =>
  ⟨decode_encode (.encStart d), fun h => exec_encStart_of_idle h d, fun h =>
    (exec_encStart_of_body (EncSt.ne_idle_iff.1 h) d).trans (next_responded_seqError s)⟩

/-- Settles O17, by the encoder state: a byte is appended in `BODY` (`exec_encByte_of_body`, the spec's state and bytes by
definition) and declined in `IDLE`. -/
theorem encByteAppendsAPayloadByte : Obligations.EncByteAppendsAPayloadByte := fun d s =>
  ⟨decode_encode (.encByte d), fun h => exec_encByte_of_body h d, fun h =>
    (exec_encByte_of_idle (EncSt.ne_body_iff.1 h) d).trans (next_responded_seqError s)⟩

/-- Settles O18, by the encoder state: in `BODY` the two bytes sent are slices of `ENC_ACC` (`crcHi_acc`, `crcLo_acc`), in
`IDLE` the operation is declined. -/
theorem encEndClosesTheFrame : Obligations.EncEndClosesTheFrame := by
  refine ⟨decode_encode .encEnd, fun s => ⟨fun h => ?_, fun h => ?_⟩⟩
  · rw [exec_encEnd_of_body h, crcHi_acc, crcLo_acc]
    rfl
  · exact (exec_encEnd_of_idle (EncSt.ne_body_iff.1 h)).trans (next_responded_seqError s)

end Sys2Proof.Machine
end

section
/-!
PROOF. Unit DEC (42_frame_decoder.md R164 to R176): what a push does in each decoder state, how a complete frame is judged,
what the reads answer, and the fields of the status word.
-/

namespace Sys2Proof.Machine

/-! ### A push on the decoder's own registers -/

section
variable {cap : Nat} {d : Byte} {u : DecUnit}

theorem pushByte_of_hunt (h : u.st = .hunt) : pushByte cap d u = needMore (pushHunt d u) := by simp [pushByte, h]

theorem pushByte_of_huntFe (h : u.st = .huntFe) : pushByte cap d u = needMore (pushHuntFe d u) := by simp [pushByte, h]

theorem pushByte_of_body (h : u.st = .body) : pushByte cap d u = needMore (pushBody cap d u) := by simp [pushByte, h]

theorem pushByte_esc1 (h : u.st = .bodyFe) : pushByte cap Config.esc1 u = needMore (pushEscape cap u) := by
  simp [pushByte, h]

theorem pushByte_badEscape (h : u.st = .bodyFe) (h1 : d ≠ Config.esc1) (h2 : d ≠ Config.ed1) :
    pushByte cap d u = complete .malformedBadEscape u := by
  unfold pushByte
  rw [h]
  exact (if_neg h1).trans (if_neg h2)

/-- 42_frame_decoder.md R170: the byte `0x0D` of an end delimiter completes the frame with its verdict. -/
theorem pushByte_ed1 {st : Status} (h : u.st = .bodyFe) (hv : frameVerdict cap u = .ok st) :
    pushByte cap Config.ed1 u = complete st u := by
  simp [pushByte, endFrame, h, hv]

/-! ### The verdict on a complete frame (42_frame_decoder.md R170) -/

theorem frameVerdict_of_ovf (h : u.ovf = true) : frameVerdict cap u = .ok .malformedOverflow := if_pos h

theorem frameVerdict_of_short (h : u.ovf = false) (h3 : u.cnt < 3) : frameVerdict cap u = .ok .malformedTooShort := by
  simp [frameVerdict, h, h3]

/-- A frame that neither overflowed nor is too short is judged by its checksum. -/
theorem frameVerdict_of_fits (h : u.ovf = false) (h3 : 3 ≤ u.cnt) (hc : u.cnt ≤ cap) :
    frameVerdict cap u = .ok (if checksumMatches u then .frameOk else .malformedChecksum) := by
  simp [frameVerdict, h, Nat.not_lt.2 h3, Nat.not_lt.2 hc]

/-- The two received checksum bytes as numbers (40_checksum.md R123). -/
theorem checksumMatches_iff : checksumMatches u = true ↔
    (checksum (u.buf.bytes (u.cnt - 2)) >>> 8) &&& 0xFF = (u.buf.read (u.cnt - 2)).toNat ∧
    checksum (u.buf.bytes (u.cnt - 2)) &&& 0xFF = (u.buf.read (u.cnt - 1)).toNat := by
  simp only [checksumMatches, Bool.and_eq_true, beq_iff_eq, ← BitVec.toNat_inj, crcHi, crcLo, BitVec.toNat_ofNat]
  rw [Nat.mod_eq_of_lt (Nat.lt_of_le_of_lt Nat.and_le_right (by decide)),
    Nat.mod_eq_of_lt (Nat.lt_of_le_of_lt Nat.and_le_right (by decide))]

end

/-! ### A completion (42_frame_decoder.md R170, R171) -/

theorem completeFrame_frameOk (u : DecUnit) :
    completeFrame .frameOk u = { u with st := .hunt, err := 0x02, valid := true } := by
  simp [completeFrame, Status.code]

/-- A malformed frame leaves `DEC_VALID` as it is. -/
theorem completeFrame_of_ne_frameOk {st : Status} (h : st ≠ .frameOk) (u : DecUnit) :
    completeFrame st u = { u with st := .hunt, err := st.code } := by
  simp [completeFrame, h]

/-! ### The operations -/

section
variable {d : Byte} {s : State} {u : DecUnit}

/-- A push changes the decoder's registers and the response port alone. -/
theorem exec_decPush {st : Status} {res : Res} (h : pushByte s.cfg.decCap d s.dec = .ok (u, st, res)) :
    exec (.decPush d) s = .next { s with dec := u, rsp := some ⟨st.code, res, []⟩ } := by
  simp [exec, execDecPush, h, State.responded, State.setDec]

/-- A push that completes a malformed frame: the decoder hunts and `DEC_ERR` records the status (42_frame_decoder.md R170,
R171). -/
theorem exec_decPush_malformed {st : Status} (h : pushByte s.cfg.decCap d s.dec = complete st s.dec)
    (hst : st ≠ .frameOk) : exec (.decPush d) s =
      .next { s with dec := { s.dec with st := .hunt, err := st.code }, rsp := some ⟨st.code, 0, []⟩ } := by
  rw [exec_decPush h, completeFrame_of_ne_frameOk hst, completionRes_of_ne_frameOk hst]

/-- A push that completes a good frame: `DEC_VALID` is set and the payload length answered (42_frame_decoder.md R170). -/
theorem exec_decPush_frameOk (h : pushByte s.cfg.decCap d s.dec = complete .frameOk s.dec) : exec (.decPush d) s =
    .next { s with
      dec := { s.dec with st := .hunt, valid := true, err := 0x02 }
      rsp := some ⟨0x02, BitVec.ofNat 32 (s.dec.cnt - 3), []⟩ } := by
  rw [exec_decPush h, completeFrame_frameOk]
  rfl

end

/-- A host error in the form of the spec's `respond(status, 0, [])`: the response port alone changes. -/
theorem decline_eq_rsp (st : Status) (s : State) : decline st s = .next { s with rsp := some ⟨st.code, 0, []⟩ } :=
  congrArg _ (State.responded_nil ..)

section
variable {s : State}

theorem exec_decRdcmd_of_valid (h : s.dec.valid = true) : exec .decRdcmd s = answerBufferByte 0 s := if_pos h

theorem exec_decRdcmd_of_not_valid (h : s.dec.valid = false) : exec .decRdcmd s = decline .notValid s := by
  simp [exec, execDecRdcmd, h]

theorem exec_decRdlen_of_valid (h : s.dec.valid = true) :
    exec .decRdlen s = answer (BitVec.ofNat 32 (payloadLength s.dec)) s := if_pos h

theorem exec_decRdlen_of_not_valid (h : s.dec.valid = false) : exec .decRdlen s = decline .notValid s := by
  simp [exec, execDecRdlen, h]

theorem exec_decRdpay_of_not_valid (h : s.dec.valid = false) (d : Byte) :
    exec (.decRdpay d) s = decline .notValid s := by
  simp [exec, execDecRdpay, h]

theorem exec_decRdpay_beyond {d : Byte} (h : s.dec.valid = true) (hd : payloadLength s.dec ≤ d.toNat) :
    exec (.decRdpay d) s = decline .indexError s := (if_pos h).trans (if_pos hd)

theorem exec_decRdpay_within {d : Byte} (h : s.dec.valid = true) (hd : d.toNat < payloadLength s.dec) :
    exec (.decRdpay d) s = answerBufferByte (1 + d.toNat) s := (if_pos h).trans (if_neg (Nat.not_le.2 hd))

/-- A byte of the decoded frame that exists is answered zero-extended, and nothing else changes. -/
theorem answerBufferByte_eq_rsp {i : Nat} (h : i < s.cfg.decCap) :
    answerBufferByte i s = .next { s with rsp := some ⟨0x00, (s.dec.buf.read i).setWidth 32, []⟩ } :=
  (answerBufferByte_eq h).trans (next_responded_ok ..)

end

/-! ### The status word (42_frame_decoder.md R176) -/

section
variable (u : DecUnit)

/-- Bits of the status word are bits of its seven fields, the high field first. -/
theorem statusWord_extractLsb' (start len : Nat) :
    (statusWord u).extractLsb' start len = BitVec.extractLsb' (n := 7 + 9 + 8 + 4 + 1 + 1 + 2) start len
      (0#7 ++ BitVec.ofNat 9 u.cnt ++ u.err ++ 0#4 ++ flagBit u.ovf ++ flagBit u.valid ++ u.st.code) := rfl

/-- Every field stands where R176 places it: the fields below it are dropped, and it is the low part of what is left. -/
theorem statusWord_fields :
    (statusWord u).extractLsb' 0 2 = u.st.code ∧ (statusWord u).extractLsb' 2 1 = flagBit u.valid ∧
    (statusWord u).extractLsb' 3 1 = flagBit u.ovf ∧ (statusWord u).extractLsb' 4 4 = 0#4 ∧
    (statusWord u).extractLsb' 8 8 = u.err ∧ (statusWord u).extractLsb' 16 9 = BitVec.ofNat 9 u.cnt ∧
    (statusWord u).extractLsb' 25 7 = 0#7 := by
  simp only [statusWord_extractLsb']
  refine ⟨?_, ?_, ?_, ?_, ?_, ?_, ?_⟩
  all_goals repeat rw [BitVec.extractLsb'_append_eq_of_le (by decide)]
  case refine_7 => exact BitVec.extractLsb'_eq_self
  all_goals exact BitVec.extractLsb'_append_eq_right

/-- A flag that stands at a bit of a word is that bit. -/
theorem getLsbD_of_flagBit {w : Res} {i : Nat} {b : Bool} (h : w.extractLsb' i 1 = flagBit b) : w.getLsbD i = b := by
  simpa [flagBit] using congrArg (BitVec.getLsbD · 0) h

end

/-! ### The obligations -/

/-- Settles O22, by the decoder state: `pushHunt` and `pushHuntFe` are the spec's two cases, and the answer is `NEED_MORE`. -/
theorem pushWhileHunting : Obligations.PushWhileHunting := by
  refine fun d s => ⟨decode_encode (.decPush d), fun h => ?_, fun h => ?_⟩
  · have hu : pushHunt d s.dec = { s.dec with st := if d = 0xFE then .huntFe else .hunt } := by
      unfold pushHunt
      split
      · rfl
      · rw [← h]
    rw [exec_decPush (pushByte_of_hunt h), hu]
    rfl
  · exact exec_decPush (pushByte_of_huntFe h)

/-- Settles O23, by the decoder state: `pushBody` and `pushEscape` append as the spec does; a read after the write of a
canonical buffer is `Memory.read_write`. -/
theorem pushInsideAFrameAppends : Obligations.PushInsideAFrameAppends := fun _ _ =>
  ⟨fun h => exec_decPush (pushByte_of_body h), fun h => exec_decPush (pushByte_esc1 h), fun hw _ _ => Memory.read_write hw⟩

/-- Settles O24: the end delimiter completes the frame with the verdict of its case. -/
theorem endDelimiterJudgesTheFrame : Obligations.EndDelimiterJudgesTheFrame := by
  refine fun s h => ⟨fun ho => ?_, fun ho h3 => ?_, fun ho h3 hc hm => ?_, fun ho h3 hc hm => ?_⟩
  · exact exec_decPush_malformed (pushByte_ed1 h (frameVerdict_of_ovf ho)) (by decide)
  · exact exec_decPush_malformed (pushByte_ed1 h (frameVerdict_of_short ho h3)) (by decide)
  · have hv := frameVerdict_of_fits ho h3 hc
    rw [if_pos (checksumMatches_iff.2 hm)] at hv
    exact exec_decPush_frameOk (pushByte_ed1 h hv)
  · have hv := frameVerdict_of_fits ho h3 hc
    rw [if_neg (mt checksumMatches_iff.1 hm)] at hv
    exact exec_decPush_malformed (pushByte_ed1 h hv) (by decide)

/-- Settles O25: the frame completes with `MALFORMED_BAD_ESCAPE`, which is no `FRAME_OK`. -/
theorem badEscapeIsMalformed : Obligations.BadEscapeIsMalformed := fun _ _ h h1 h2 =>
  exec_decPush_malformed (pushByte_badEscape h h1 h2) (by decide)

/-- Settles O26: what is left is `forgetFrame`, and the response sends nothing. -/
theorem decResetHuntsAfresh : Obligations.DecResetHuntsAfresh :=
  ⟨decode_encode .decReset, fun s => next_responded_ok (s.setDec (forgetFrame s.dec)) 0⟩

/-- Settles O27, by `DEC_VALID` and, for the payload, by the index: a byte answered lies below the capacity. -/
theorem decReadsAnswerTheFrame : Obligations.DecReadsAnswerTheFrame := by
  refine ⟨decode_encode .decRdcmd, decode_encode .decRdlen, fun d s => ⟨decode_encode (.decRdpay d), fun hv => ?_,
    fun hv h3 hc => ⟨?_, ?_, fun hd => ?_, fun hd => ?_⟩⟩⟩
  · rw [exec_decRdcmd_of_not_valid hv, exec_decRdlen_of_not_valid hv, exec_decRdpay_of_not_valid hv]
    exact ⟨decline_eq_rsp .notValid s, decline_eq_rsp .notValid s, decline_eq_rsp .notValid s⟩
  · exact (exec_decRdcmd_of_valid hv).trans (answerBufferByte_eq_rsp (by omega))
  · exact (exec_decRdlen_of_valid hv).trans (next_responded_ok ..)
  · exact (exec_decRdpay_beyond hv hd).trans (decline_eq_rsp .indexError s)
  · exact (exec_decRdpay_within hv hd).trans (answerBufferByte_eq_rsp (by omega))

/-- Settles O28, by the fields of the word (`statusWord_fields`). -/
theorem decStatusWordLayout : Obligations.DecStatusWordLayout := by
  refine ⟨decode_encode .decRdstat, fun s => ⟨statusWord s.dec, next_responded_ok .., ?_⟩⟩
  obtain ⟨hst, hvalid, hovf, hzero, herr, hcnt, hhigh⟩ := statusWord_fields s.dec
  exact ⟨hst, getLsbD_of_flagBit hvalid, getLsbD_of_flagBit hovf, hzero, herr, hcnt, hhigh⟩

end Sys2Proof.Machine
end

section
/-!
PROOF. The decoder reads an encoded frame (42_frame_decoder.md R181). The bytes between the delimiters are collected one by
one, and when they fit the capacity the buffer holds the frame at the end delimiter.
-/

namespace Sys2Proof.Machine

/-! ### Pushes that complete nothing -/

/-- Pushing the bytes in order takes the decoder from one set of registers to the other, and every push answers `NEED_MORE`. -/
inductive Waits (cap : Nat) : List Byte → DecUnit → DecUnit → Prop
  | nil (u : DecUnit) : Waits cap [] u u
  | cons {d : Byte} {ds : List Byte} {u v w : DecUnit} (h : pushByte cap d u = needMore v) (hs : Waits cap ds v w) :
      Waits cap (d :: ds) u w

theorem Waits.append {cap : Nat} {ds es : List Byte} {u v w : DecUnit} (hd : Waits cap ds u v) (he : Waits cap es v w) :
    Waits cap (ds ++ es) u w := by
  induction hd with
  | nil u => exact he
  | cons h _ ih => exact .cons h (ih he)

theorem Waits.single {cap : Nat} {d : Byte} {u v : DecUnit} (h : pushByte cap d u = needMore v) : Waits cap [d] u v :=
  .cons h (.nil v)

theorem runOps_cons_of_next {i : Instr} {is : List Instr} {s t : State} (h : exec i s = .next t) :
    runOps (i :: is) s = (t.rsp.toList ++ (runOps is t).1, (runOps is t).2) := by
  rw [runOps, h]

/-- On the machine: one `NEED_MORE` for each byte, then the answer of the push after them. -/
theorem runOps_decFeed_of_waits {cap : Nat} {ds : List Byte} {d : Byte} {u v w : DecUnit} {st : Status} {res : Res}
    (hds : Waits cap ds u v) (hd : pushByte cap d v = .ok (w, st, res)) {s : State} (hc : s.cfg.decCap = cap)
    (hu : s.dec = u) : ∃ t,
      runOps (decFeed (ds ++ [d])) s =
        (List.replicate ds.length ⟨0x01, 0, []⟩ ++ [⟨st.code, res, []⟩], .next t) ∧ t.dec = w := by
  induction hds generalizing s with
  | nil u =>
    subst hc hu
    exact ⟨_, runOps_cons_of_next (exec_decPush hd), rfl⟩
  | cons h _ ih =>
    subst hc hu
    obtain ⟨t, ht, htw⟩ := ih (s := { s with dec := _, rsp := some ⟨0x01, 0, []⟩ }) hd rfl rfl
    refine ⟨t, (runOps_cons_of_next (exec_decPush h)).trans ?_, htw⟩
    exact congrArg (fun r => (⟨0x01, 0, []⟩ :: r.1, r.2)) ht

/-! ### Collecting the bytes of a frame (42_frame_decoder.md R167) -/

/-- What appending the bytes in order leaves of the decoder's registers. -/
def collect (cap : Nat) (bs : List Byte) (u : DecUnit) : DecUnit := bs.foldl (fun u b => appendByte cap b u) u

@[simp] theorem collect_nil (cap : Nat) (u : DecUnit) : collect cap [] u = u := rfl

@[simp] theorem collect_cons (cap : Nat) (b : Byte) (bs : List Byte) (u : DecUnit) :
    collect cap (b :: bs) u = collect cap bs (appendByte cap b u) := rfl

@[simp] theorem collect_st (cap : Nat) (bs : List Byte) (u : DecUnit) : (collect cap bs u).st = u.st := by
  induction bs generalizing u with
  | nil => rfl
  | cons b bs ih => rw [collect_cons, ih, appendByte_st]

@[simp] theorem collect_valid (cap : Nat) (bs : List Byte) (u : DecUnit) : (collect cap bs u).valid = u.valid := by
  induction bs generalizing u with
  | nil => rfl
  | cons b bs ih => rw [collect_cons, ih, appendByte_valid]

/-- The bytes of a frame read so far: all of them are in the buffer, in order, and none was dropped. -/
structure Collected (bs : List Byte) (u : DecUnit) : Prop where
  noOverflow : u.ovf = false
  form : u.buf.wf = true
  bytes : u.buf.bytes u.cnt = bs

theorem collected_openFrame {u : DecUnit} (h : u.buf.wf = true) : Collected [] (openFrame u) := ⟨rfl, h, rfl⟩

section
variable {cap : Nat} {bs : List Byte} {u : DecUnit}

theorem Collected.count (h : Collected bs u) : u.cnt = bs.length := by
  rw [← h.bytes, Memory.length_bytes]

theorem collected_appendByte (h : Collected bs u) (b : Byte) (hc : bs.length < cap) :
    Collected (bs ++ [b]) (appendByte cap b u) := by
  have hcnt := h.count
  obtain ⟨hovf, hwf, hbytes⟩ := h
  rcases appendByte_cases cap b u with ⟨_, ha⟩ | ⟨hfull, _⟩
  · rw [ha]
    exact ⟨hovf, Memory.wf_write hwf, by rw [Memory.bytes_write hwf, hbytes]⟩
  · omega

/-- Bytes that fit are all collected. -/
theorem collected_collect (h : Collected bs u) {cs : List Byte} (hc : bs.length + cs.length ≤ cap) :
    Collected (bs ++ cs) (collect cap cs u) := by
  induction cs generalizing bs u with
  | nil => simpa using h
  | cons b cs ih =>
    rw [List.length_cons] at hc
    rw [collect_cons, List.append_cons]
    exact ih (collected_appendByte h b (by omega)) (by simp; omega)

/-- Bytes that do not fit set `DEC_OVF`, which stays set. -/
theorem collect_ovf (hu : u.cnt ≤ cap) (h : u.ovf = true ∨ cap < u.cnt + bs.length) :
    (collect cap bs u).ovf = true := by
  induction bs generalizing u with
  | nil => exact h.resolve_right (Nat.not_lt.2 hu)
  | cons b bs ih =>
    rw [List.length_cons] at h
    rw [collect_cons]
    rcases appendByte_cases cap b u with ⟨hlt, ha⟩ | ⟨_, ha⟩ <;> rw [ha]
    · exact ih hlt (h.imp_right fun h => by simp only; omega)
    · exact ih hu (.inl rfl)

end

/-! ### Reading an encoded frame -/

section
variable {cap : Nat} {u : DecUnit}

/-- An escape pair appends the `0xFE` it stands for and goes on in `BODY` (42_frame_decoder.md R169). -/
theorem pushEscape_bodyFe (h : u.st = .body) :
    pushEscape cap { u with st := .bodyFe } = appendByte cap Config.flag u := by
  rcases appendByte_cases cap Config.flag u with ⟨hlt, ha⟩ | ⟨hle, ha⟩ <;> rw [ha]
  · simp [pushEscape, appendByte, hlt, h]
  · simp [pushEscape, appendByte, Nat.not_lt.2 hle, h]

/-- A byte in its wire form is appended inside a frame: as itself, or as the `0xFE` of an escape pair (42_frame_decoder.md
R168, R169). -/
theorem waits_esc (h : u.st = .body) (b : Byte) : Waits cap (esc b) u (appendByte cap b u) := by
  unfold esc
  split
  next hb =>
    subst hb
    refine .cons (v := { u with st := .bodyFe }) (pushByte_of_body h) (.single ((pushByte_esc1 rfl).trans ?_))
    rw [pushEscape_bodyFe h]
  next hb =>
    refine .single ((pushByte_of_body h).trans ?_)
    rw [pushBody, if_neg hb]

theorem waits_escapeAll (h : u.st = .body) (bs : List Byte) : Waits cap (escapeAll bs) u (collect cap bs u) := by
  induction bs generalizing u with
  | nil => exact .nil u
  | cons b bs ih => exact (waits_esc h b).append (ih ((appendByte_st cap b u).trans h))

/-- Two `0xFE` begin a frame (42_frame_decoder.md R165, R166). -/
theorem waits_startDelimiter (h : u.st = .hunt) : Waits cap startDelimiter u (openFrame u) :=
  .cons (pushByte_of_hunt h) (.single (pushByte_of_huntFe rfl))

end

@[simp] theorem length_withChecksum (body : List Byte) : (withChecksum body).length = body.length + 2 := by
  simp [withChecksum]

/-- An encoded frame without its last byte. -/
def frameHead (c : Byte) (p : List Byte) : List Byte :=
  startDelimiter ++ escapeAll (withChecksum (c :: p)) ++ [Config.flag]

theorem encodeFrame_eq (c : Byte) (p : List Byte) : encodeFrame c p = frameHead c p ++ [Config.ed1] := by
  simp [encodeFrame, frameHead, endDelimiter]

/-- What reading `frameHead c p` leaves: the command, the payload and the checksum are collected, and the decoder is one
byte from the end delimiter. -/
def headRead (cap : Nat) (c : Byte) (p : List Byte) (u : DecUnit) : DecUnit :=
  { collect cap (withChecksum (c :: p)) (openFrame u) with st := .bodyFe }

theorem waits_frameHead {cap : Nat} {u : DecUnit} (h : u.st = .hunt) (c : Byte) (p : List Byte) :
    Waits cap (frameHead c p) u (headRead cap c p u) := by
  have hbody : (openFrame u).st = .body := rfl
  exact ((waits_startDelimiter h).append (waits_escapeAll hbody _)).append
    (.single (pushByte_of_body ((collect_st ..).trans hbody)))

theorem ovf_headRead {cap : Nat} {p : List Byte} (hc : cap < p.length + 3) (c : Byte) (u : DecUnit) :
    (headRead cap c p u).ovf = true :=
  collect_ovf (Nat.zero_le cap) (.inr (by simp [openFrame]; omega))

theorem collected_headRead {cap : Nat} {p : List Byte} {u : DecUnit} (hw : u.buf.wf = true) (hc : p.length + 3 ≤ cap)
    (c : Byte) : Collected (withChecksum (c :: p)) (headRead cap c p u) := by
  obtain ⟨hovf, hwf, hbytes⟩ := collected_collect (collected_openFrame hw) (cs := withChecksum (c :: p)) (by simp; omega)
  exact ⟨hovf, hwf, hbytes⟩

/-! ### The verdict -/

/-- The first byte of a buffer, then the bytes after it. -/
theorem Memory.bytes_succ_left (m : Memory) (n : Nat) :
    m.bytes (n + 1) = m.read 0 :: (List.range n).map fun i => m.read (1 + i) := by
  simp [Memory.bytes, List.range_succ_eq_map, Nat.add_comm]

section
variable {cap : Nat} {body : List Byte} {u : DecUnit}

/-- What the buffer holds when a body and its checksum are collected. -/
theorem buffer_of_collected (h : Collected (withChecksum body) u) :
    u.cnt = body.length + 2 ∧ u.buf.bytes body.length = body ∧ u.buf.read body.length = crcHi (checksum body) ∧
      u.buf.read (body.length + 1) = crcLo (checksum body) := by
  have hn : u.cnt = body.length + 2 := h.count.trans (length_withChecksum body)
  have hbytes := h.bytes
  rw [hn, Memory.bytes_succ, Memory.bytes_succ, withChecksum, List.append_assoc] at hbytes
  obtain ⟨hbody, hcrc⟩ := List.append_inj hbytes (Memory.length_bytes ..)
  exact ⟨hn, hbody, by simpa using hcrc⟩

theorem checksumMatches_of_collected (h : Collected (withChecksum body) u) : checksumMatches u = true := by
  obtain ⟨hn, hbody, hhi, hlo⟩ := buffer_of_collected h
  simp [checksumMatches, hn, hbody, hhi, hlo]

theorem heldFrame_of_collected {c : Byte} {p : List Byte} (h : Collected (withChecksum (c :: p)) u) :
    heldFrame u = .frame c p := by
  obtain ⟨hn, hbody, -, -⟩ := buffer_of_collected h
  rw [List.length_cons, Memory.bytes_succ_left] at hbody
  obtain ⟨hc, hp⟩ := List.cons.inj hbody
  have hlen : payloadLength u = p.length := by simp [payloadLength, hn]
  rw [heldFrame, hlen, hc, hp]

/-- A body of at least one byte, collected with its checksum, is `FRAME_OK`. -/
theorem frameVerdict_of_collected (h : Collected (withChecksum body) u) (hb : 1 ≤ body.length)
    (hc : body.length + 2 ≤ cap) : frameVerdict cap u = .ok .frameOk := by
  obtain ⟨hn, -⟩ := buffer_of_collected h
  rw [frameVerdict_of_fits h.noOverflow (by omega) (by omega), if_pos (checksumMatches_of_collected h)]

end

/-! ### The obligation -/

/-- After a push that answers anything but `NEED_MORE` the decoder hunts (42_frame_decoder.md R170, R171). -/
theorem hunt_of_completion {d : Byte} {s t : State} {r : Response} (h : exec (.decPush d) s = .next t)
    (hr : t.rsp = some r) (hst : r.status ≠ 0x01) : t.dec.st = .hunt := by
  obtain ⟨u, st, res, hp, rfl⟩ := execDecPush_next h
  obtain rfl := Option.some.inj hr
  have hne : st ≠ .needMore := fun h => hst (congrArg Status.code h)
  rcases pushByte_cases hp with ⟨_, _, h0, _⟩ | ⟨_, _, h0, _⟩ | ⟨_, _, h0, _⟩ | ⟨_, _, _, h0, _⟩ | ⟨_, rfl, _⟩
  case inr.inr.inr.inr => rfl
  all_goals exact absurd h0 hne

/-- An encoded frame is pushed byte by byte with `NEED_MORE` until its last byte, which completes the frame with the verdict
on what was collected. -/
theorem runOps_encodeFrame {s : State} {c : Byte} {p : List Byte} {st : Status} (h : s.dec.st = .hunt)
    (hv : frameVerdict s.cfg.decCap (headRead s.cfg.decCap c p s.dec) = .ok st) : ∃ t,
      runOps (decFeed (encodeFrame c p)) s =
        (List.replicate ((encodeFrame c p).length - 1) ⟨0x01, 0, []⟩ ++
          [⟨st.code, completionRes st (headRead s.cfg.decCap c p s.dec), []⟩], .next t) ∧
      t.dec = completeFrame st (headRead s.cfg.decCap c p s.dec) := by
  have hlen : (encodeFrame c p).length - 1 = (frameHead c p).length := by simp [encodeFrame_eq]
  rw [hlen, encodeFrame_eq]
  exact runOps_decFeed_of_waits (waits_frameHead h c p) (pushByte_ed1 rfl hv) rfl rfl

/-- Settles O29. Within the capacity all bytes of the frame are collected (`collected_headRead`), so that the verdict is
`FRAME_OK` and the frame is held; beyond it `DEC_OVF` is set (`ovf_headRead`). -/
theorem completionLeavesADecoderThatDecodes : Obligations.CompletionLeavesADecoderThatDecodes := by
  refine ⟨fun _ _ _ _ => hunt_of_completion, fun c p s h hw => ⟨fun hc => ?_, fun hc => ?_⟩⟩
  · have hcol := collected_headRead hw hc c
    obtain ⟨hn, -⟩ := buffer_of_collected hcol
    obtain ⟨t, hrun, ht⟩ := runOps_encodeFrame h (frameVerdict_of_collected hcol (by simp) hc)
    rw [completeFrame_frameOk] at ht
    refine ⟨t, hrun.trans ?_, by rw [ht], by rw [ht], ?_⟩
    · simp [completionRes, payloadLength, hn, Status.code]
    · calc heldFrame t.dec = heldFrame (headRead s.cfg.decCap c p s.dec) := by rw [ht]; rfl
        _ = .frame c p := heldFrame_of_collected hcol
  · obtain ⟨t, hrun, ht⟩ := runOps_encodeFrame h (frameVerdict_of_ovf (ovf_headRead hc c s.dec))
    rw [completeFrame_of_ne_frameOk (by decide)] at ht
    refine ⟨t, hrun, by rw [ht], ?_⟩
    rw [ht]
    exact collect_valid ..

end Sys2Proof.Machine
end

section
/-!
PROOF. Unit EVT (43_event_unpacker.md R201 to R221): what each operation leaves in each of its cases, the record's fields by
shift and mask, the selector table, and the year that fits its register.
-/

namespace Sys2Proof.Machine

/-! ### The fields of a record (43_event_unpacker.md R203) -/

/-- A number that fits a register is held as it is. -/
theorem toNat_ofNat_of_lt {w x : Nat} (h : x < 2 ^ w) : (BitVec.ofNat w x).toNat = x :=
  (BitVec.toNat_ofNat ..).trans (Nat.mod_eq_of_lt h)

/-- A masked value fits a register as wide as the mask. -/
theorem toNat_ofNat_and {w m : Nat} (h : m < 2 ^ w) (x : Nat) : (BitVec.ofNat w (x &&& m)).toNat = x &&& m :=
  toNat_ofNat_of_lt (Nat.lt_of_le_of_lt Nat.and_le_right h)

/-- A masked value above a byte fits a register 8 bits wider than the mask. -/
theorem maskedHigh_or_byte_lt {w m : Nat} (h : m < 2 ^ w) (x : Nat) (b : Byte) :
    ((x &&& m) <<< 8) ||| b.toNat < 2 ^ (w + 8) := by
  have hx : x &&& m < 2 ^ w := Nat.lt_of_le_of_lt Nat.and_le_right h
  rw [← Nat.shiftLeft_add_eq_or_of_lt b.isLt, Nat.shiftLeft_eq, Nat.pow_add]
  omega

/-- A 1-bit field is the bit it is tested for. -/
theorem toNat_and_one_beq_one (x : Nat) : (x &&& 1 == 1).toNat = x &&& 1 := by
  rw [Nat.and_one_is_mod]
  obtain h | h := Nat.mod_two_eq_zero_or_one x <;> rw [h] <;> rfl

section
variable (b1 b2 b3 b4 b5 b6 b7 b8 : Byte)

theorem unpackRecord_ym_toNat : (unpackRecord b1 b2 b3 b4 b5 b6 b7 b8).ym.toNat = (b1.toNat >>> 6) &&& 0x03 :=
  toNat_ofNat_and (by decide) _

theorem unpackRecord_z_toNat : (unpackRecord b1 b2 b3 b4 b5 b6 b7 b8).z.toNat = (b1.toNat >>> 5) &&& 0x01 :=
  toNat_and_one_beq_one _

theorem unpackRecord_day_toNat : (unpackRecord b1 b2 b3 b4 b5 b6 b7 b8).day.toNat = b2.toNat &&& 0x1F :=
  toNat_ofNat_and (by decide) _

theorem unpackRecord_month_toNat :
    (unpackRecord b1 b2 b3 b4 b5 b6 b7 b8).month.toNat = (b3.toNat >>> 4) &&& 0x0F :=
  toNat_ofNat_and (by decide) _

theorem unpackRecord_hourMin_toNat :
    (unpackRecord b1 b2 b3 b4 b5 b6 b7 b8).hourMin.toNat = ((b3.toNat &&& 0x0F) <<< 8) ||| b4.toNat :=
  toNat_ofNat_of_lt (maskedHigh_or_byte_lt (w := 4) (by decide) ..)

/-- `hour_min` has 12 bits, so an hour is at most 68 and fits 7 bits. -/
theorem unpackRecord_hour_toNat : (unpackRecord b1 b2 b3 b4 b5 b6 b7 b8).hour.toNat =
    (((b3.toNat &&& 0x0F) <<< 8) ||| b4.toNat) / 60 := by
  have h := maskedHigh_or_byte_lt (w := 4) (m := 0x0F) (by decide) b3.toNat b4
  exact toNat_ofNat_of_lt (by omega)

theorem unpackRecord_minute_toNat : (unpackRecord b1 b2 b3 b4 b5 b6 b7 b8).minute.toNat =
    (((b3.toNat &&& 0x0F) <<< 8) ||| b4.toNat) % 60 :=
  toNat_ofNat_of_lt (by omega)

theorem unpackRecord_restore_toNat :
    (unpackRecord b1 b2 b3 b4 b5 b6 b7 b8).restore.toNat = (b5.toNat >>> 2) &&& 0x01 :=
  toNat_and_one_beq_one _

theorem unpackRecord_partition_toNat :
    (unpackRecord b1 b2 b3 b4 b5 b6 b7 b8).partition.toNat = (b5.toNat >>> 3) &&& 0x1F :=
  toNat_ofNat_and (by decide) _

theorem unpackRecord_code_toNat :
    (unpackRecord b1 b2 b3 b4 b5 b6 b7 b8).code.toNat = ((b5.toNat &&& 0x03) <<< 8) ||| b6.toNat :=
  toNat_ofNat_of_lt (maskedHigh_or_byte_lt (w := 2) (by decide) ..)

theorem unpackRecord_source : (unpackRecord b1 b2 b3 b4 b5 b6 b7 b8).source = b7 := rfl

end

/-! ### The selector table (43_event_unpacker.md R206) -/

theorem zextFlag_eq_ite (b : Bool) : zextFlag b = if b then 1 else 0 := by cases b <;> rfl

/-- No selector above `0x0E` is in the table. -/
theorem selectField_eq_none {d : Byte} (h : 0x0E < d.toNat) (u : EvtUnit) : selectField u d = none := by
  unfold selectField
  split
  case h_16 => rfl
  all_goals omega

/-! ### The year rule (43_event_unpacker.md R211, R214) -/

theorem Reference.legal_iff {r : Reference} : r.legal = true ↔ 4 ≤ r.year.toNat ∧ validDt r.dateTime = true := by
  simp [Reference.legal]

/-- The candidate lies in the 4-year block of the reference's year, or is that year. -/
theorem candidateYear_le (f : EventFields) (ref : DateTime) :
    candidateYear f ref ≤ ref.year - ref.year % 4 + 3 := by
  have hym := f.ym.isLt
  unfold candidateYear
  simp only
  split <;> omega

theorem resolvedYear_le_candidateYear (f : EventFields) (ref : DateTime) :
    resolvedYear f ref ≤ candidateYear f ref := by
  unfold resolvedYear
  simp only
  split <;> omega

/-- A 4-year block that begins below 2^16 ends below it, so the year fits `F_YEAR`. -/
theorem resolvedYear_lt (f : EventFields) (r : Reference) : resolvedYear f r.dateTime < 2 ^ 16 := by
  have hyear : r.dateTime.year < 2 ^ 16 := r.year.isLt
  have hle := resolvedYear_le_candidateYear f r.dateTime
  have hcand := candidateYear_le f r.dateTime
  omega

/-! ### The halves of `REF_YEAR` (43_event_unpacker.md R216, R217) -/

theorem toNat_append_byte (hi lo : Byte) : (hi ++ lo).toNat = hi.toNat * 256 + lo.toNat := by
  rw [BitVec.toNat_append, ← Nat.shiftLeft_add_eq_or_of_lt lo.isLt, Nat.shiftLeft_eq]

theorem yearWithHigh_toNat (y : BitVec 16) (d : Byte) :
    (yearWithHigh y d).toNat = d.toNat * 256 + y.toNat % 256 := by
  rw [yearWithHigh, toNat_append_byte, BitVec.extractLsb'_toNat, Nat.shiftRight_zero]

theorem yearWithLow_toNat (y : BitVec 16) (d : Byte) :
    (yearWithLow y d).toNat = y.toNat / 256 * 256 + d.toNat := by
  have hy := y.isLt
  rw [yearWithLow, toNat_append_byte, BitVec.extractLsb'_toNat, Nat.shiftRight_eq_div_pow,
    Nat.mod_eq_of_lt (by omega)]

/-! ### The operations -/

section
variable (d : Byte) (s : State)

/-- An `OK` of the event unit that answers no value: its registers and the response port alone change. -/
theorem respond_ok_setEvt (u : EvtUnit) :
    respond .ok 0 [] (s.setEvt u) = .next { s with evt := u, rsp := some ⟨0x00, 0, []⟩ } :=
  next_responded_ok (s.setEvt u) 0

theorem exec_evtClear : exec .evtClear s =
    .next { s with
      evt := { s.evt with recCnt := 0, valid := false, yearValid := false }
      rsp := some ⟨0x00, 0, []⟩ } := respond_ok_setEvt ..

theorem exec_evtPush :
    exec (.evtPush d) s = .next { s with evt := pushRecord d s.evt, rsp := some ⟨0x00, 0, []⟩ } := respond_ok_setEvt ..

/-- A write of the reference leaves the new reference and clears `YEAR_VALID`. -/
theorem writeRef_eq_rsp (r : Reference) : writeRef r s =
    .next { s with evt := { s.evt with ref := r, yearValid := false }, rsp := some ⟨0x00, 0, []⟩ } :=
  respond_ok_setEvt ..

end

section
variable {d : Byte} {s : State}

theorem exec_evtUnpack_of_ne (h : s.evt.recCnt ≠ 8) : exec .evtUnpack s =
    .next { s with evt := { s.evt with valid := false, yearValid := false }, rsp := some ⟨0x20, 0, []⟩ } :=
  (if_neg h).trans (congrArg _ (State.responded_nil ..))

theorem exec_evtUnpack_of_eq (h : s.evt.recCnt = 8) : exec .evtUnpack s =
    .next { s with
      evt := { s.evt with fields := unpackLoaded s.evt.record, valid := true, yearValid := false }
      rsp := some ⟨0x00, 0, []⟩ } :=
  (if_pos h).trans (respond_ok_setEvt ..)

/-- A selector of the table answers its value or, without the flag it needs, `NOT_VALID`. -/
theorem exec_evtRd_of_selectField {e : Bool × Res} (h : selectField s.evt d = some e) : exec (.evtRd d) s =
    .next { s with rsp := some (if e.1 then ⟨0x00, e.2, []⟩ else ⟨0x31, 0, []⟩) } := by
  obtain ⟨flag, value⟩ := e
  simp only [exec, execEvtRd, h]
  cases flag
  · exact decline_eq_rsp .notValid s
  · exact next_responded_ok s value

theorem exec_evtRd_of_none (h : selectField s.evt d = none) :
    exec (.evtRd d) s = .next { s with rsp := some ⟨0x32, 0, []⟩ } := by
  simp only [exec, execEvtRd, h]
  exact decline_eq_rsp .indexError s

theorem exec_evtYear_of_not_valid (h : s.evt.valid = false) : exec .evtYear s = decline .notValid s := by
  simp [exec, execEvtYear, h]

theorem exec_evtYear_of_not_legal (h : s.evt.valid = true) (hl : ¬ s.evt.ref.legal = true) :
    exec .evtYear s = decline .refInvalid s :=
  (if_pos h).trans (if_neg hl)

theorem exec_evtYear_of_legal (h : s.evt.valid = true) (hl : s.evt.ref.legal = true) : exec .evtYear s =
    .next { s with evt := latchYear s.evt, rsp := some ⟨0x00, (latchYear s.evt).year.setWidth 32, []⟩ } :=
  ((if_pos h).trans (if_pos hl)).trans (next_responded_ok ..)

end

theorem latchYear_year_toNat (u : EvtUnit) : (latchYear u).year.toNat = resolvedYear u.fields u.ref.dateTime :=
  toNat_ofNat_of_lt (resolvedYear_lt ..)

/-! ### The obligations -/

/-- Settles O36, by the count: the fields latched are those of `unpackRecord` on the bytes loaded. -/
theorem evtUnpackLatchesTheFields : Obligations.EvtUnpackLatchesTheFields :=
  ⟨decode_encode .evtUnpack, fun _ => ⟨exec_evtUnpack_of_ne, fun h => ⟨_, exec_evtUnpack_of_eq h,
    unpackRecord_ym_toNat .., unpackRecord_z_toNat .., unpackRecord_day_toNat .., unpackRecord_month_toNat ..,
    unpackRecord_hourMin_toNat .., unpackRecord_hour_toNat .., unpackRecord_minute_toNat ..,
    unpackRecord_restore_toNat .., unpackRecord_partition_toNat .., unpackRecord_code_toNat ..,
    congrArg BitVec.toNat (unpackRecord_source ..)⟩⟩⟩

/-- Settles O37: each row of the spec's table is what `selectField` gives for its selector, and above `0x0E` it gives
nothing. -/
theorem evtRdAnswersTheSelectedField : Obligations.EvtRdAnswersTheSelectedField := by
  refine fun d s => ⟨decode_encode (.evtRd d), fun e he => exec_evtRd_of_selectField (e := e.2) ?_,
    fun hd => exec_evtRd_of_none (selectField_eq_none hd s.evt)⟩
  simp only [← zextFlag_eq_ite] at he
  fin_cases he <;> rfl

/-- Settles O38, by `EVT_VALID` and the reference: the year latched is `resolvedYear`, the spec's `y2` by definition. -/
theorem evtYearResolvesTheYear : Obligations.EvtYearResolvesTheYear := by
  refine ⟨decode_encode .evtYear, fun s => ⟨fun h => ?_, fun h hl => ?_, fun h hl => ?_⟩⟩
  · exact (exec_evtYear_of_not_valid h).trans (decline_eq_rsp .notValid s)
  · exact (exec_evtYear_of_not_legal h (mt Reference.legal_iff.1 hl)).trans (decline_eq_rsp .refInvalid s)
  · exact ⟨_, exec_evtYear_of_legal h (Reference.legal_iff.2 hl), latchYear_year_toNat s.evt⟩

/-- Settles O34: the response sends nothing (`exec_evtClear`). -/
theorem evtClearEmptiesTheLoader : Obligations.EvtClearEmptiesTheLoader :=
  ⟨decode_encode .evtClear, exec_evtClear⟩

/-- Settles O35, by the count: a byte that is loaded is read back from its place in a canonical buffer
(`Memory.read_write`). -/
theorem evtPushLoadsOneByte : Obligations.EvtPushLoadsOneByte := by
  refine fun d s => ⟨decode_encode (.evtPush d), _, exec_evtPush d s, fun h => ?_, fun h hw k => ?_⟩
  · exact if_neg (Nat.not_lt.2 h)
  · exact (congrArg (Memory.read · k) (if_pos h)).trans (Memory.read_write hw)

/-- Settles O39: each write is `writeRef` of its register, and the halves of `REF_YEAR` are numbers by
`yearWithHigh_toNat` and `yearWithLow_toNat`. -/
theorem referenceWrites : Obligations.ReferenceWrites := fun d s =>
  ⟨decode_encode (.evtRefyh d), decode_encode (.evtRefyl d), decode_encode (.evtRefmon d),
    decode_encode (.evtRefday d), decode_encode (.evtRefhour d), decode_encode (.evtRefmin d),
    ⟨_, writeRef_eq_rsp s _, yearWithHigh_toNat ..⟩, ⟨_, writeRef_eq_rsp s _, yearWithLow_toNat ..⟩,
    writeRef_eq_rsp s _, writeRef_eq_rsp s _, writeRef_eq_rsp s _, writeRef_eq_rsp s _⟩

end Sys2Proof.Machine
end

section
/-!
PROOF. The host's record limit (44_host_controller.md R244). The limit is tested at the top of every iteration and an
iteration appends one event, so no loop passes it; what a class's loop and a run can give is said once, by cases.
-/

namespace Sys2Proof.Machine

variable {cls : LogClass} {limit : Option Nat} {n : Nat} {classes : List LogClass} {x : Exchange} {xs : List Exchange}
  {cur : Cursor} {events : List Event} {s : State}

/-! ### What a class's loop gives -/

theorem classLoop_of_limitHit (h : limitHit limit events = true) :
    classLoop cls limit xs cur events s = some ⟨s, events, xs, .limitReached⟩ := by
  unfold classLoop
  exact if_pos h

/-- With nothing more delivered the request times out, and no event is added (R245). -/
theorem classLoop_nil_cases (h : limitHit limit events = false) {r : ClassResult}
    (hr : classLoop cls limit [] cur events s = some r) :
    ∃ p, performAll (requestOps cur) s = some p ∧ r = ⟨p.1, events, [], .timedOut⟩ := by
  unfold classLoop at hr
  rw [h] at hr
  obtain ⟨p, hp, rfl⟩ := Option.map_eq_some_iff.1 hr
  exact ⟨p, hp, rfl⟩

/-- Below the limit one iteration ends the loop, or appends its event and the loop goes on from the next cursor. -/
theorem classLoop_cons_cases (h : limitHit limit events = false) {r : ClassResult}
    (hr : classLoop cls limit (x :: xs) cur events s = some r) :
    (∃ t why, iterate cls cur x s = some (t, .stop why) ∧ r = ⟨t, events, xs, why⟩) ∨
    (∃ t e next, iterate cls cur x s = some (t, .event e next) ∧
      classLoop cls limit xs next (events ++ [e]) t = some r) := by
  unfold classLoop at hr
  rw [h] at hr
  cases hi : iterate cls cur x s with
  | none => simp [hi] at hr
  | some p =>
    obtain ⟨t, ⟨e, next⟩ | why⟩ := p
    · exact .inr ⟨t, e, next, rfl, by simpa [hi] using hr⟩
    · exact .inl ⟨t, why, rfl, by simpa [hi] using hr.symm⟩

/-- A class's loop that starts within the limit ends within it: an event is appended only below the limit. -/
theorem classLoop_length_le {r : ClassResult} (hn : events.length ≤ n)
    (hr : classLoop cls (some n) xs cur events s = some r) : r.events.length ≤ n := by
  induction xs generalizing cur events s with
  | nil =>
    cases h : limitHit (some n) events with
    | true => cases (classLoop_of_limitHit h).symm.trans hr; exact hn
    | false => obtain ⟨_, _, rfl⟩ := classLoop_nil_cases h hr; exact hn
  | cons x xs ih =>
    cases h : limitHit (some n) events with
    | true => cases (classLoop_of_limitHit h).symm.trans hr; exact hn
    | false =>
      obtain ⟨_, _, _, rfl⟩ | ⟨_, e, _, _, hgo⟩ := classLoop_cons_cases h hr
      · exact hn
      · have hlt : events.length < n := by simpa using h
        exact ih (by simpa using hlt) hgo

/-! ### What a run of classes gives -/

/-- The first class's loop stops the whole run at the limit; after any other end the classes left go on from what it
leaves. -/
theorem runClasses_cons_cases {r : RunResult} (hr : runClasses limit (cls :: classes) xs events s = some r) :
    ∃ c, classLoop cls limit xs (initialCursor cls) events s = some c ∧
      ((c.why = .limitReached ∧ r = ⟨c.block, c.events, [(cls, c.why)]⟩) ∨
       (c.why ≠ .limitReached ∧ ∃ t, runClasses limit classes c.rest c.events c.block = some t ∧
        r = { t with ends := (cls, c.why) :: t.ends })) := by
  unfold runClasses at hr
  cases hc : classLoop cls limit xs (initialCursor cls) events s with
  | none => simp [hc] at hr
  | some c =>
    refine ⟨c, rfl, ?_⟩
    by_cases hw : c.why = .limitReached
    · exact .inl ⟨hw, by simpa [hc, hw] using hr.symm⟩
    · simp only [hc, if_neg hw] at hr
      obtain ⟨t, ht, rfl⟩ := Option.map_eq_some_iff.1 hr
      exact .inr ⟨hw, t, ht, rfl⟩

/-- At the limit a run stops whatever classes are left: block and events are those it began with. -/
theorem runClasses_of_limitHit (h : limitHit limit events = true) :
    ∃ ends, runClasses limit classes xs events s = some ⟨s, events, ends⟩ := by
  cases classes with
  | nil => exact ⟨[], rfl⟩
  | cons cls classes => exact ⟨[(cls, .limitReached)], by simp [runClasses, classLoop_of_limitHit h]⟩

theorem runClasses_length_le {r : RunResult} (hn : events.length ≤ n)
    (hr : runClasses (some n) classes xs events s = some r) : r.events.length ≤ n := by
  induction classes generalizing xs events s r with
  | nil => cases hr; exact hn
  | cons cls classes ih =>
    obtain ⟨c, hc, ⟨_, rfl⟩ | ⟨_, t, ht, rfl⟩⟩ := runClasses_cons_cases hr
    · exact classLoop_length_le hn hc
    · exact ih (r := t) (classLoop_length_le hn hc) ht

/-! ### The obligation -/

/-- Settles O58: a run at the limit stops at once (`runClasses_of_limitHit`), a run that starts within it stays within it
(`runClasses_length_le`), and a retrieval starts with no events. -/
theorem retrievalRespectsTheLimit : Obligations.RetrievalRespectsTheLimit := fun n _ _ _ _ =>
  ⟨fun h => runClasses_of_limitHit (decide_eq_true h), fun _ hn hr => runClasses_length_le hn hr,
    fun _ _ hr => runClasses_length_le (events := []) (Nat.zero_le n) hr⟩

end Sys2Proof.Machine
end

section
/-!
PROOF. Which status wins (60_exceptions.md R274). What an operation does in each of its cases is said by the lemmas of its
unit; added here are a selector whose flag is clear and the status that an end delimiter answers.
-/

namespace Sys2Proof.Machine

/-- With both flags clear no selector of the table has the flag it needs (43_event_unpacker.md R206). -/
theorem selectField_of_flags_clear {d : Byte} {u : EvtUnit} (hd : d.toNat ≤ 0x0E) (hv : u.valid = false)
    (hy : u.yearValid = false) : ∃ value, selectField u d = some (false, value) := by
  unfold selectField
  rw [hv, hy]
  interval_cases d.toNat <;> exact ⟨_, rfl⟩

section
variable {s : State}

/-- The end delimiter answers the frame's verdict (42_frame_decoder.md R164, R170). -/
theorem exists_rsp_decPush_ed1 {st : Status} (h : s.dec.st = .bodyFe)
    (hv : frameVerdict s.cfg.decCap s.dec = .ok st) :
    ∃ t, exec (.decPush 0x0D) s = .next t ∧ t.rsp = some ⟨st.code, completionRes st s.dec, []⟩ :=
  ⟨_, exec_decPush (pushByte_ed1 h hv), rfl⟩

/-- A frame that neither overflowed nor is too short answers its payload length, or that its checksum does not match. -/
theorem exists_rsp_decPush_ed1_of_fits (h : s.dec.st = .bodyFe) (ho : s.dec.ovf = false) (h3 : 3 ≤ s.dec.cnt)
    (hc : s.dec.cnt ≤ s.cfg.decCap) : ∃ t, exec (.decPush 0x0D) s = .next t ∧
      t.rsp = some (if checksumMatches s.dec then ⟨0x02, BitVec.ofNat 32 (s.dec.cnt - 3), []⟩ else ⟨0x10, 0, []⟩) := by
  obtain ⟨t, ht, hrsp⟩ := exists_rsp_decPush_ed1 h (frameVerdict_of_fits ho h3 hc)
  refine ⟨t, ht, hrsp.trans ?_⟩
  cases checksumMatches s.dec <;> rfl

end

/-- Settles O51, clause by clause: the conditions of a clause are the case of the operation that answers its status. -/
theorem statusPriority : Obligations.StatusPriority := by
  refine fun d s => ⟨fun _ _ _ he hs => ⟨_, step_of_decode_error he hs, rfl⟩,
    fun hd => ⟨_, exec_evtRd_of_none (selectField_eq_none hd s.evt), rfl⟩,
    fun hd hv hy => ?_,
    fun h => ⟨_, exec_encStart_of_body h d, rfl⟩,
    fun h => ⟨_, exec_encByte_of_idle h d, rfl⟩,
    fun h => ⟨_, exec_encEnd_of_idle h, rfl⟩,
    fun hv => ⟨_, exec_decRdpay_of_not_valid hv d, rfl⟩,
    fun hv hd => ⟨_, exec_decRdpay_beyond hv hd, rfl⟩,
    fun hv => ⟨_, exec_evtYear_of_not_valid hv, rfl⟩,
    fun hv hl => ⟨_, exec_evtYear_of_not_legal hv (ne_true_of_eq_false hl), rfl⟩,
    fun h ho => exists_rsp_decPush_ed1 h (frameVerdict_of_ovf ho),
    fun h ho h3 => exists_rsp_decPush_ed1 h (frameVerdict_of_short ho h3),
    exists_rsp_decPush_ed1_of_fits⟩
  obtain ⟨_, hsel⟩ := selectField_of_flags_clear hd hv hy
  exact ⟨_, exec_evtRd_of_selectField hsel, rfl⟩

end Sys2Proof.Machine
end

section
/-!
PROOF. The opcode map (30_encoding.md R92 to R97): the round trip, the table's rows, and the step on a presented word.
-/

namespace Sys2Proof

/-- A word that decodes is the encoding of what it decodes to. -/
theorem encode_of_decode {cw : CmdWord} {i : Instr} (h : decode cw = .ok i) : encode i = cw :=
  (encode_of_decodeFields h).trans (commandWord_fields cw)

/-- Settles O1: `decode_encode` by the constructors of `Instr`, `encode_of_decode` by the branches of the decoder. -/
theorem instructionWordsRoundTrip : Obligations.InstructionWordsRoundTrip := ⟨decode_encode, fun _ _ => encode_of_decode⟩

/-! ### The rows of the table -/

/-- The word of every operation lies in the row of its mnemonic. -/
theorem tableRow_statement (i : Instr) : Laws.TableRow.Statement i := by
  cases i
  case csInit => exact Laws.TableRow.csInit
  case csByte d => exact Laws.TableRow.csByte d
  case csRdhi => exact Laws.TableRow.csRdhi
  case csRdlo => exact Laws.TableRow.csRdlo
  case csRdacc => exact Laws.TableRow.csRdacc
  case encStart d => exact Laws.TableRow.encStart d
  case encByte d => exact Laws.TableRow.encByte d
  case encEnd => exact Laws.TableRow.encEnd
  case decReset => exact Laws.TableRow.decReset
  case decPush d => exact Laws.TableRow.decPush d
  case decRdcmd => exact Laws.TableRow.decRdcmd
  case decRdlen => exact Laws.TableRow.decRdlen
  case decRdpay d => exact Laws.TableRow.decRdpay d
  case decRdstat => exact Laws.TableRow.decRdstat
  case evtClear => exact Laws.TableRow.evtClear
  case evtPush d => exact Laws.TableRow.evtPush d
  case evtUnpack => exact Laws.TableRow.evtUnpack
  case evtRd d => exact Laws.TableRow.evtRd d
  case evtYear => exact Laws.TableRow.evtYear
  case evtRefyh d => exact Laws.TableRow.evtRefyh d
  case evtRefyl d => exact Laws.TableRow.evtRefyl d
  case evtRefmon d => exact Laws.TableRow.evtRefmon d
  case evtRefday d => exact Laws.TableRow.evtRefday d
  case evtRefhour d => exact Laws.TableRow.evtRefhour d
  case evtRefmin d => exact Laws.TableRow.evtRefmin d
  case sysReset => exact Laws.TableRow.sysReset

/-- A word that decodes lies in the row of the operation it decodes to. -/
theorem exists_row_of_decode {cw : CmdWord} {i : Instr} (h : decode cw = .ok i) :
    ∃ r ∈ opTable, r.mnemonic = i.mnemonic ∧ cw &&& r.mask = r.pattern := by
  have hrow := tableRow_statement i
  rwa [Laws.TableRow.Statement, encode_of_decode h] at hrow

/-- Every row is one opcode: with any operand byte, or with `0x00` alone (30_encoding.md R94, R95). -/
theorem opTable_rows : ∀ r ∈ opTable,
    (r.mask = 0xFF00 ∧ opField r.pattern ∈ operandOps) ∨
    (r.mask = 0xFFFF ∧ opField r.pattern ∈ plainOps ∧ operandField r.pattern = 0) := by
  decide

theorem commandWord_and_operandMask (op d : Byte) : commandWord op d &&& 0xFF00 = commandWord op 0 :=
  Laws.operandRow_covers op d

theorem and_plainMask (cw : CmdWord) : cw &&& 0xFFFF = cw := BitVec.and_allOnes

/-- A word in a row has the row's opcode. -/
theorem opField_of_covers {r : OpRow} (hr : r ∈ opTable) {cw : CmdWord} (h : cw &&& r.mask = r.pattern) :
    opField cw = opField r.pattern := by
  obtain ⟨hmask, -⟩ | ⟨hmask, -⟩ := opTable_rows r hr <;> rw [hmask] at h
  · rw [← h, ← commandWord_fields cw, commandWord_and_operandMask, opField_commandWord, opField_commandWord]
  · rw [← h, and_plainMask]

theorem exists_decode_of_covers {r : OpRow} (hr : r ∈ opTable) {cw : CmdWord} (h : cw &&& r.mask = r.pattern) :
    ∃ i, decode cw = .ok i := by
  have hop := opField_of_covers hr h
  rw [← commandWord_fields cw, exists_decode_commandWord_iff, hop]
  obtain ⟨-, hrow⟩ | ⟨hmask, hrow, hzero⟩ := opTable_rows r hr
  · exact .inl hrow
  · rw [hmask, and_plainMask] at h
    exact .inr ⟨hrow, h ▸ hzero⟩

/-- No opcode has two rows. -/
theorem opTable_opcodes_nodup : (opTable.map fun r => opField r.pattern).Nodup := by decide

/-- Settles O2: a row is one opcode (`opTable_rows`), and no opcode has two rows. -/
theorem decoderAgreesWithOpcodeTable : Obligations.DecoderAgreesWithOpcodeTable := by
  refine ⟨fun cw => ⟨fun ⟨i, h⟩ => ?_, fun ⟨r, hr, h⟩ => exists_decode_of_covers hr h⟩,
    fun _ _ => exists_row_of_decode, fun cw r hr r' hr' h h' => ?_⟩
  · obtain ⟨r, hr, -, hcov⟩ := exists_row_of_decode h
    exact ⟨r, hr, hcov⟩
  · exact List.inj_on_of_nodup_map opTable_opcodes_nodup hr hr'
      ((opField_of_covers hr h).symm.trans (opField_of_covers hr' h'))

/-- Settles O3: the legal words are the encodings of their operations; the others have no branch in the decoder. -/
theorem writtenOutWordsDecode : Obligations.WrittenOutWordsDecode :=
  ⟨decode_encode .csInit, decode_encode (.csByte 0x8C), decode_encode (.encStart 0xFE), decode_encode .encEnd,
    decode_encode (.decPush 0x0D), decode_encode (.decRdpay 0x0A), decode_encode .evtUnpack, decode_encode (.evtRd 0x0F),
    decode_encode (.evtRefyl 0xE8), decode_encode .sysReset, rfl, rfl, rfl⟩

namespace Machine

/-! ### The step on a presented word -/

theorem step_of_decode_ok {s : State} {rest : List Input} {cw : CmdWord} {i : Instr} (hs : s.inputs = .command cw :: rest)
    (hd : decode cw = .ok i) : step s = exec i { s with inputs := rest } := by
  simp [step, runCommand, hs, hd]

theorem step_of_inputs_nil {s : State} (hs : s.inputs = []) : step s = .next s := by
  unfold step
  rw [hs]

/-- A 16-bit number stands for its word (30_encoding.md R92). -/
theorem tableWord_toNat (cw : CmdWord) : tableWord 16 cw.toNat = some cw := by
  have hmod : cw.toNat % 2 ^ 16 = cw.toNat := Nat.mod_eq_of_lt cw.isLt
  rw [tableWord, hmod, if_pos cw.isLt, BitVec.ofNat_toNat, BitVec.setWidth_eq]

theorem step_withFetchWord (s : State) (i : Instr) : step (s.withFetchWord 16 (encode i).toNat) = exec i s := by
  rw [State.withFetchWord, tableWord_toNat]
  exact step_encode i s s.inputs

/-- Settles O4: the word presented is the first element of `inputs`, by `withFetchWord` too. -/
theorem stepRunsThePresentedCommand : Obligations.StepRunsThePresentedCommand :=
  ⟨fun _ _ _ _ hs hd => step_of_decode_ok hs hd, step_withFetchWord, fun _ hs => step_of_inputs_nil hs⟩

/-- Settles O8: `SYS.RESET` responds with nothing to send, and the reset input does not respond. -/
theorem resetTransmitsNothing : Obligations.ResetTransmitsNothing :=
  ⟨decode_encode .sysReset, fun s => (exec_sysReset s).trans (next_responded_ok ..), fun _ _ h => step_rst h⟩

end Machine

end Sys2Proof
end

section
/-!
PROOF. What an operation leaves in each unit's registers (10_state.md R21 to R30, the "written by" lists), said once: a
function of the operation for `CS`, `ENC` and `EVT`, and the cases of `DEC`.
-/

namespace Sys2Proof.Machine

/-! ### The read operations (20_memory.md, section 3) -/

/-- The eight operations that only read. -/
def isRead : Instr → Bool
  | .csRdhi | .csRdlo | .csRdacc | .decRdcmd | .decRdlen | .decRdpay _ | .decRdstat | .evtRd _ => true
  | _ => false

/-- A read is one response, which sends nothing. -/
theorem exec_read {i : Instr} {s t : State} (hi : isRead i = true) (h : exec i s = .next t) :
    ∃ st res, t = s.responded st res [] := by
  cases i
  case csRdhi | csRdlo | csRdacc | decRdstat => exact ⟨_, _, (Host.Outcome.next.inj h).symm⟩
  case decRdcmd =>
    cases hv : s.dec.valid
    · exact ⟨_, _, (Host.Outcome.next.inj ((exec_decRdcmd_of_not_valid hv).symm.trans h)).symm⟩
    · exact ⟨_, _, (answerBufferByte_next ((exec_decRdcmd_of_valid hv).symm.trans h)).2⟩
  case decRdlen =>
    cases hv : s.dec.valid
    · exact ⟨_, _, (Host.Outcome.next.inj ((exec_decRdlen_of_not_valid hv).symm.trans h)).symm⟩
    · exact ⟨_, _, (Host.Outcome.next.inj ((exec_decRdlen_of_valid hv).symm.trans h)).symm⟩
  case decRdpay d =>
    cases hv : s.dec.valid
    · exact ⟨_, _, (Host.Outcome.next.inj ((exec_decRdpay_of_not_valid hv d).symm.trans h)).symm⟩
    · obtain hd | hd := Nat.lt_or_ge d.toNat (payloadLength s.dec)
      · exact ⟨_, _, (answerBufferByte_next ((exec_decRdpay_within hv hd).symm.trans h)).2⟩
      · exact ⟨_, _, (Host.Outcome.next.inj ((exec_decRdpay_beyond hv hd).symm.trans h)).symm⟩
  case evtRd d =>
    obtain ⟨st, res, he, -⟩ := execEvtRd_eq d s
    exact ⟨st, res, (Host.Outcome.next.inj (he.symm.trans h)).symm⟩
  all_goals cases hi

/-! ### Unit CS -/

/-- `CS_ACC` after an operation (10_state.md R21). -/
def csAfter (i : Instr) (u : CsUnit) : CsUnit :=
  match i with
  | .csInit => ⟨accInit⟩
  | .csByte d => ⟨accStep u.acc d⟩
  | .sysReset => .reset
  | _ => u

theorem exec_cs {i : Instr} {s t : State} (h : exec i s = .next t) : t.cs = csAfter i s.cs := by
  cases i
  case csInit | csByte d | csRdhi | csRdlo | csRdacc | sysReset => cases h; rfl
  all_goals exact exec_sameUnit (u := .cs) h nofun nofun nofun

/-! ### Unit ENC -/

/-- `ENC_ST` and `ENC_ACC` after an operation (10_state.md R22). -/
def encAfter (i : Instr) (u : EncUnit) : EncUnit :=
  match i, u.st with
  | .encStart d, .idle => ⟨.body, accStep accInit d⟩
  | .encByte d, .body => ⟨.body, accStep u.acc d⟩
  | .encEnd, .body => ⟨.idle, u.acc⟩
  | .sysReset, _ => .reset
  | _, _ => u

theorem exec_enc {i : Instr} {s t : State} (h : exec i s = .next t) : t.enc = encAfter i s.enc := by
  cases i
  case encStart d =>
    cases hst : s.enc.st
    · cases (exec_encStart_of_idle hst d).symm.trans h; simp [encAfter, hst]
    · cases (exec_encStart_of_body hst d).symm.trans h; simp [encAfter, hst]
  case encByte d =>
    cases hst : s.enc.st
    · cases (exec_encByte_of_idle hst d).symm.trans h; simp [encAfter, hst]
    · cases (exec_encByte_of_body hst d).symm.trans h; simp [encAfter, hst]
  case encEnd =>
    cases hst : s.enc.st
    · cases (exec_encEnd_of_idle hst).symm.trans h; simp [encAfter, hst]
    · cases (exec_encEnd_of_body hst).symm.trans h; simp [encAfter, hst]
  case sysReset => cases h; rfl
  all_goals exact exec_sameUnit (u := .enc) h nofun nofun nofun

/-! ### Unit DEC -/

/-- The operations that write no register of the decoder. -/
def keepsDec : Instr → Bool
  | .decPush _ | .decReset | .sysReset => false
  | _ => true

/-- The decoder's registers after an operation (10_state.md R23 to R26): those of a push, with its status in the
response; those `DEC.RESET` or a reset leaves; or those before. -/
theorem exec_dec_cases {i : Instr} {s t : State} (h : exec i s = .next t) :
    (∃ d st res, i = .decPush d ∧ pushByte s.cfg.decCap d s.dec = .ok (t.dec, st, res) ∧
      t.rsp = some ⟨st.code, res, []⟩) ∨
    (i = .decReset ∧ t.dec = forgetFrame s.dec) ∨ (i = .sysReset ∧ t.dec = .reset) ∨
    (keepsDec i = true ∧ t.dec = s.dec) := by
  cases i
  case decPush d =>
    obtain ⟨u, st, res, hp, rfl⟩ := execDecPush_next h
    exact .inl ⟨d, st, res, rfl, hp, rfl⟩
  case decReset => cases h; exact .inr (.inl ⟨rfl, rfl⟩)
  case sysReset => cases h; exact .inr (.inr (.inl ⟨rfl, rfl⟩))
  case decRdcmd | decRdlen | decRdpay d | decRdstat =>
    obtain ⟨st, res, rfl⟩ := exec_read rfl h
    exact .inr (.inr (.inr ⟨rfl, rfl⟩))
  all_goals exact .inr (.inr (.inr ⟨rfl, exec_sameUnit (u := .dec) h nofun nofun nofun⟩))

theorem exec_keepsDec {i : Instr} {s t : State} (hk : keepsDec i = true) (h : exec i s = .next t) : t.dec = s.dec := by
  obtain ⟨_, _, _, rfl, -⟩ | ⟨rfl, -⟩ | ⟨rfl, -⟩ | ⟨-, ht⟩ := exec_dec_cases h
  case inr.inr.inr => exact ht
  all_goals cases hk

/-! ### Unit EVT -/

/-- The reference that an operation leaves, if it is one of the six that write it (10_state.md R29). -/
def refAfter (i : Instr) (r : Reference) : Option Reference :=
  match i with
  | .evtRefyh d => some { r with year := yearWithHigh r.year d }
  | .evtRefyl d => some { r with year := yearWithLow r.year d }
  | .evtRefmon d => some { r with month := d }
  | .evtRefday d => some { r with day := d }
  | .evtRefhour d => some { r with hour := d }
  | .evtRefmin d => some { r with minute := d }
  | _ => none

/-- The registers `EVT.UNPACK` leaves (43_event_unpacker.md R204). -/
def unpackUnit (u : EvtUnit) : EvtUnit :=
  if u.recCnt = 8 then { u with fields := unpackLoaded u.record, valid := true, yearValid := false }
  else { u with valid := false, yearValid := false }

/-- The registers `EVT.YEAR` leaves (43_event_unpacker.md R215). -/
def yearUnit (u : EvtUnit) : EvtUnit := if u.valid = true ∧ u.ref.legal = true then latchYear u else u

/-- The registers of the event unit after an operation (10_state.md R27 to R30). -/
def evtAfter (i : Instr) (u : EvtUnit) : EvtUnit :=
  match i with
  | .evtClear => { u with recCnt := 0, valid := false, yearValid := false }
  | .evtPush d => pushRecord d u
  | .evtUnpack => unpackUnit u
  | .evtYear => yearUnit u
  | .sysReset => .reset
  | _ => match refAfter i u.ref with
    | some r => { u with ref := r, yearValid := false }
    | none => u

theorem exec_evt {i : Instr} {s t : State} (h : exec i s = .next t) : t.evt = evtAfter i s.evt := by
  cases i
  case evtRd d => obtain ⟨st, res, rfl⟩ := exec_read rfl h; rfl
  case evtUnpack =>
    by_cases hc : s.evt.recCnt = 8
    · cases (exec_evtUnpack_of_eq hc).symm.trans h; simp [evtAfter, unpackUnit, hc]
    · cases (exec_evtUnpack_of_ne hc).symm.trans h; simp [evtAfter, unpackUnit, hc]
  case evtYear =>
    cases hv : s.evt.valid
    · cases (exec_evtYear_of_not_valid hv).symm.trans h; simp [evtAfter, yearUnit, hv]
    · by_cases hl : s.evt.ref.legal = true
      · cases (exec_evtYear_of_legal hv hl).symm.trans h; simp [evtAfter, yearUnit, hv, hl]
      · cases (exec_evtYear_of_not_legal hv hl).symm.trans h; simp [evtAfter, yearUnit, hl]
  case evtClear | evtPush d | evtRefyh d | evtRefyl d | evtRefmon d | evtRefday d | evtRefhour d | evtRefmin d
      | sysReset => cases h; rfl
  all_goals exact exec_sameUnit (u := .evt) h nofun nofun nofun

end Sys2Proof.Machine
end

section
/-!
PROOF. Sequences of operations: one unit's registers follow from the operations that concern that unit alone, whatever
operations of other units stand in between (20_memory.md R71).
-/

namespace Sys2Proof.Machine

/-! ### Runs in parts -/

/-- A run that goes on executes its first operation and goes on from there. -/
theorem runOps_cons_inv {i : Instr} {is : List Instr} {s t : State} {rs : List Response}
    (h : runOps (i :: is) s = (rs, .next t)) :
    ∃ v rs', exec i s = .next v ∧ runOps is v = (rs', .next t) ∧ rs = v.rsp.toList ++ rs' := by
  rw [runOps] at h
  cases hv : exec i s with
  | next v =>
    rw [hv] at h
    obtain ⟨rfl, hrun⟩ := Prod.mk.inj h
    exact ⟨v, _, rfl, Prod.ext rfl hrun, rfl⟩
  | fault f => rw [hv] at h; cases h
  | refused r => rw [hv] at h; cases h

theorem runOps_append {xs : List Instr} {s t : State} {rs : List Response} (h : runOps xs s = (rs, .next t))
    (ys : List Instr) : runOps (xs ++ ys) s = (rs ++ (runOps ys t).1, (runOps ys t).2) := by
  induction xs generalizing s rs with
  | nil => cases h; rfl
  | cons x xs ih =>
    obtain ⟨v, rs', hx, hxs, rfl⟩ := runOps_cons_inv h
    rw [List.cons_append, runOps_cons_of_next hx, ih hxs, List.append_assoc]

/-- The history after an operation is the one before with what its response sent (20_memory.md R74). -/
theorem exec_txLog {i : Instr} {s t : State} (h : exec i s = .next t) : t.txLog = s.txLog ++ t.sent := by
  conv_lhs => rw [← exec_next_replay h, State.replay_txLog]

theorem flatMap_tx_rsp (t : State) : t.rsp.toList.flatMap Response.tx = t.sent := by
  unfold State.sent
  cases t.rsp <;> simp

/-- What is sent is added to the transmit history, response by response (20_memory.md R74). -/
theorem runOps_txLog {ops : List Instr} {s t : State} {rs : List Response} (h : runOps ops s = (rs, .next t)) :
    t.txLog = s.txLog ++ rs.flatMap Response.tx := by
  induction ops generalizing s rs with
  | nil => cases h; simp
  | cons i is ih =>
    obtain ⟨v, rs', hv, his, rfl⟩ := runOps_cons_inv h
    rw [ih his, exec_txLog hv, List.flatMap_append, flatMap_tx_rsp, List.append_assoc]

/-! ### The operations that concern a unit -/

theorem SameUnit.trans {u : OpUnit} {s t v : State} (h : SameUnit u s t) (h' : SameUnit u t v) : SameUnit u s v := by
  cases u <;> simp_all [SameUnit]

theorem eq_sysReset_of_unit {i : Instr} (h : i.unit = .sys) : i = .sysReset := by
  cases i
  case sysReset => rfl
  all_goals cases h

theorem concerns_iff {u : OpUnit} {i : Instr} : concerns u i = true ↔ i.unit = u ∨ i.unit = .sys := by
  simp [concerns]

/-- An operation that concerns a unit answers alike, and leaves the same registers of that unit, on every state that
holds the same ones. -/
theorem exec_of_concerns {u : OpUnit} {i : Instr} {s s' t : State} (hi : concerns u i = true)
    (h : exec i s = .next t) (hs : SameUnit u s s') (hc : s'.cfg = s.cfg) :
    ∃ t', exec i s' = .next t' ∧ SameUnit u t t' ∧ t'.cfg = t.cfg ∧ t'.rsp = t.rsp := by
  obtain rfl | hsys := concerns_iff.1 hi
  · exact ⟨_, exec_next_of_sameUnit h hs hc, sameUnit_replay_self .., by rw [State.replay_cfg, hc, exec_cfg h], rfl⟩
  · obtain rfl := eq_sysReset_of_unit hsys
    cases h
    exact ⟨_, exec_sysReset s', by cases u <;> simp [SameUnit], hc, rfl⟩

/-- An operation that does not concern a unit leaves its registers, and sends nothing of the encoder's. -/
theorem exec_of_not_concerns {u : OpUnit} {i : Instr} {s t : State} (hu : u ≠ .sys) (hi : ¬ concerns u i = true)
    (h : exec i s = .next t) : SameUnit u s t ∧ t.cfg = s.cfg ∧ (u = .enc → t.rsp.toList.flatMap Response.tx = []) := by
  obtain ⟨hiu, hsys⟩ := not_or.1 (mt concerns_iff.2 hi)
  exact ⟨exec_sameUnit h hsys hu (Ne.symm hiu), exec_cfg h, fun he => (flatMap_tx_rsp t).trans (sent_eq_nil h (he ▸ hiu))⟩

/-- One unit's registers after a run, and the bytes sent, are those of the run of the operations that concern the unit.
-/
theorem runOps_filter_concerns {u : OpUnit} (hu : u ≠ .sys) {ops : List Instr} {s s' t : State} {rs : List Response}
    (h : runOps ops s = (rs, .next t)) (hs : SameUnit u s s') (hc : s'.cfg = s.cfg) :
    ∃ rs' t', runOps (ops.filter (concerns u)) s' = (rs', .next t') ∧ SameUnit u t t' ∧ t'.cfg = t.cfg ∧
      (u = .enc → rs'.flatMap Response.tx = rs.flatMap Response.tx) := by
  induction ops generalizing s s' rs with
  | nil => cases h; exact ⟨_, _, rfl, hs, hc, fun _ => rfl⟩
  | cons i is ih =>
    obtain ⟨v, rs', hv, his, rfl⟩ := runOps_cons_inv h
    by_cases hi : concerns u i = true
    · obtain ⟨v', hv', hvv', hcv, hrsp⟩ := exec_of_concerns hi hv hs hc
      obtain ⟨rs'', t', hrun, hsame, hct, htx⟩ := ih his hvv' hcv
      refine ⟨v'.rsp.toList ++ rs'', t', ?_, hsame, hct, fun he => ?_⟩
      · rw [List.filter_cons_of_pos hi, runOps_cons_of_next hv', hrun]
      · rw [List.flatMap_append, List.flatMap_append, hrsp, htx he]
    · obtain ⟨hsv, hcv, hsent⟩ := exec_of_not_concerns hu hi hv
      obtain ⟨rs'', t', hrun, hsame, hct, htx⟩ := ih his (hsv.symm.trans hs) (hc.trans hcv.symm)
      refine ⟨rs'', t', ?_, hsame, hct, fun he => ?_⟩
      · rw [List.filter_cons_of_neg hi, hrun]
      · rw [List.flatMap_append, hsent he, htx he, List.nil_append]

/-- Operations that do not concern a unit leave its registers. -/
theorem runOps_sameUnit {u : OpUnit} (hu : u ≠ .sys) {ops : List Instr} {s t : State} {rs : List Response}
    (hops : ∀ j ∈ ops, concerns u j = false) (h : runOps ops s = (rs, .next t)) : SameUnit u s t ∧ t.cfg = s.cfg := by
  obtain ⟨rs', t', hrun, hsame, hc, -⟩ := runOps_filter_concerns hu h (.refl u s) rfl
  have hnone : ops.filter (concerns u) = [] := by simpa using hops
  rw [hnone] at hrun
  cases hrun
  exact ⟨hsame.symm, hc.symm⟩

end Sys2Proof.Machine
end

section
/-!
PROOF. The checksum (40_checksum.md, section 2): the step on 16 bits, its range, the masked accumulator, and that the
`CS` operations compute it.
-/

namespace Sys2Proof.Machine

/-! ### The step -/

/-- Only the low 16 bits take part in the rotation. -/
theorem rotated_mod (a : Nat) : rotated (a % 0x10000) = rotated a := by
  unfold rotated
  omega

theorem csumStep_mod (a b : Nat) : csumStep (a % 0x10000) b = csumStep a b := by
  rw [csumStep_eq, csumStep_eq, rotated_mod]

/-- `rotated` is the library's left rotation. -/
theorem rotateLeft_toNat (a : Nat) : ((BitVec.ofNat 16 a).rotateLeft 1).toNat = rotated a := by
  have hbit : a % 2 ^ 16 / 2 ^ 15 &&& 0x01 = a % 2 ^ 16 / 2 ^ 15 := by
    rw [Nat.and_one_is_mod]
    omega
  rw [BitVec.toNat_rotateLeft, BitVec.toNat_ofNat, ← rotated_mod a, ← rotated_bits,
    Nat.and_two_pow_sub_one_eq_mod _ 16, Nat.shiftRight_eq_div_pow _ 15, hbit]

/-- Settles O12: in `csumStep_eq` the accumulator stands in the rotation alone. -/
theorem checksumStepReadsSixteenBits : Obligations.ChecksumStepReadsSixteenBits := fun a b =>
  ⟨(csumStep_mod a b).symm, by rw [rotateLeft_toNat]; exact csumStep_eq a b⟩

/-! ### The range -/

theorem csumStep_le {b : Nat} (a : Nat) (hb : b ≤ 0xFF) : csumStep a b ≤ 0x101FD := by
  rw [csumStep_eq]
  omega

theorem csumFold_le {a : Nat} (ha : a ≤ 0x101FD) (bytes : List Byte) : csumFold a bytes ≤ 0x101FD := by
  induction bytes generalizing a with
  | nil => exact ha
  | cons b bytes ih => exact ih (csumStep_le a (Nat.le_of_lt_succ b.isLt))

/-- Settles O13: the bound is that of `csumStep_eq`, kept along the fold. -/
theorem checksumStepRange : Obligations.ChecksumStepRange :=
  ⟨fun a _ hb => csumStep_le a hb, by decide, by decide, csumFold_le (by decide), by decide⟩

/-! ### The masked accumulator -/

/-- A fold masked to 16 bits after every step is the fold masked once. -/
theorem foldl_masked (a : Nat) (bytes : List Byte) :
    bytes.foldl (fun a b => csumStep a b.toNat % 0x10000) (a % 0x10000) = csumFold a bytes % 0x10000 := by
  induction bytes generalizing a with
  | nil => rfl
  | cons b bytes ih => rw [List.foldl_cons, csumStep_mod, ih, csumFold_cons]

theorem crcHi_mod (a : Nat) : crcHi (a % 0x10000) = crcHi a := by
  apply BitVec.eq_of_toNat_eq
  rw [crcHi_toNat, crcHi_toNat]
  omega

theorem crcLo_mod (a : Nat) : crcLo (a % 0x10000) = crcLo a := by
  apply BitVec.eq_of_toNat_eq
  rw [crcLo_toNat, crcLo_toNat]
  omega

/-- Settles O14: the mask commutes with the fold, and both output bytes lie below it. -/
theorem maskedChecksumHasTheSameBytes : Obligations.MaskedChecksumHasTheSameBytes := by
  intro bytes masked
  have hmasked : masked = checksum bytes % 0x10000 := foldl_masked 0x147A bytes
  exact ⟨hmasked, by rw [hmasked, crcHi_mod], by rw [hmasked, crcLo_mod]⟩

/-! ### The engine -/

theorem runOps_csBytes (bytes : List Byte) (s : State) : ∃ t,
    runOps (bytes.map .csByte) s = (List.replicate bytes.length ⟨0x00, 0, []⟩, .next t) ∧
    t.cs.acc.toNat = csumFold s.cs.acc.toNat bytes := by
  induction bytes generalizing s with
  | nil => exact ⟨s, rfl, rfl⟩
  | cons b bytes ih =>
    obtain ⟨t, hrun, hacc⟩ := ih ((s.setCs ⟨accStep s.cs.acc b⟩).responded .ok 0 [])
    refine ⟨t, ?_, by simpa using hacc⟩
    rw [List.map_cons, runOps_cons_of_next (exec_csByte s b), hrun]
    rfl

theorem runOps_csSum (bytes : List Byte) (s : State) : ∃ t,
    runOps (csSum bytes) s = (List.replicate (bytes.length + 1) ⟨0x00, 0, []⟩, .next t) ∧
    t.cs.acc.toNat = checksum bytes := by
  obtain ⟨t, hrun, hacc⟩ := runOps_csBytes bytes ((s.setCs ⟨accInit⟩).responded .ok 0 [])
  refine ⟨t, ?_, hacc⟩
  rw [csSum, runOps_cons_of_next (exec_csInit s), hrun]
  rfl

/-- Settles O15: the `CS` operations alone determine `CS_ACC` (`runOps_filter_concerns`), and they fold the step. -/
theorem checksumEngineRefinesChecksum : Obligations.ChecksumEngineRefinesChecksum := by
  refine ⟨runOps_csSum, fun bytes ops s t rs hops hrun => ?_⟩
  obtain ⟨rs', t', hrun', hsame, -⟩ := runOps_filter_concerns (u := .cs) nofun hrun (.refl .cs s) rfl
  have hacc' : t'.cs.acc.toNat = checksum bytes := by
    obtain hops | ⟨hops, hinit⟩ := hops <;> rw [hops] at hrun'
    · obtain ⟨v, hv, hacc⟩ := runOps_csSum bytes s
      cases hv.symm.trans hrun'
      exact hacc
    · obtain ⟨v, hv, hacc⟩ := runOps_csBytes bytes s
      cases hv.symm.trans hrun'
      rw [hacc, hinit]
      rfl
  have hacc : t.cs.acc.toNat = checksum bytes := by
    have hcs : t'.cs = t.cs := hsame
    rw [← hcs, hacc']
  refine ⟨hacc, ?_, ?_⟩
  · rw [exec_csRdhi, next_responded_ok, hacc, zextByte]
  · rw [exec_csRdlo, next_responded_ok, hacc, zextByte]

end Sys2Proof.Machine
end

section
/-!
PROOF. The frame encoder (41_frame_encoder.md, section 3): the shape of a frame, the state machine, and that the `ENC`
operations emit `encode(c, p)`.
-/

namespace Sys2Proof.Machine

/-! ### The shape of a frame -/

@[simp] theorem escapeAll_nil : escapeAll [] = [] := rfl

@[simp] theorem escapeAll_cons (u : Byte) (us : List Byte) : escapeAll (u :: us) = esc u ++ escapeAll us := rfl

@[simp] theorem escapeAll_append (us vs : List Byte) : escapeAll (us ++ vs) = escapeAll us ++ escapeAll vs :=
  List.flatMap_append

theorem esc_flag : esc Config.flag = [Config.flag, Config.esc1] := if_pos rfl

theorem esc_of_ne {u : Byte} (h : u ≠ Config.flag) : esc u = [u] := if_neg h

/-- The escaping invariant: every `0xFE` of an escaped sequence is followed by `0xF0` (30_encoding.md R85, R86). -/
theorem getElem?_succ_of_flag {us : List Byte} {i : Nat} (h : (escapeAll us)[i]? = some Config.flag) :
    (escapeAll us)[i + 1]? = some Config.esc1 := by
  induction us generalizing i with
  | nil => cases h
  | cons u us ih =>
    by_cases hu : u = Config.flag
    · rw [escapeAll_cons, hu, esc_flag] at h ⊢
      match i with
      | 0 => rfl
      | 1 => cases h
      | i + 2 => exact ih h
    · rw [escapeAll_cons, esc_of_ne hu] at h ⊢
      match i with
      | 0 => exact absurd (Option.some.inj h) hu
      | i + 1 => exact ih h

theorem length_escapeAll (us : List Byte) : (escapeAll us).length = us.length + us.count Config.flag := by
  induction us with
  | nil => rfl
  | cons u us ih =>
    rw [escapeAll_cons, List.length_append, ih, List.length_cons]
    by_cases hu : u = Config.flag
    · rw [hu, esc_flag, List.count_cons_self]
      simp; omega
    · rw [esc_of_ne hu, List.count_cons_of_ne hu]
      simp; omega

/-- Settles O20: between the delimiters stand the escaped bytes of the body and its checksum. -/
theorem encodedFrameShape : Obligations.EncodedFrameShape := by
  refine fun c p => ⟨escapeAll (withChecksum (c :: p)), rfl, fun i => getElem?_succ_of_flag, ?_⟩
  have hlen := length_escapeAll (withChecksum (c :: p))
  rw [length_withChecksum, List.length_cons] at hlen
  calc (encodeFrame c p).length = 2 + (escapeAll (withChecksum (c :: p))).length + 2 := by
        rw [encodeFrame, List.length_append, List.length_append]; rfl
    _ = p.length + 7 + (withChecksum (c :: p)).count Config.flag := by omega

/-! ### The state machine -/

theorem encAfter_closes {i : Instr} {u : EncUnit} (hu : u.st = .body) (h : (encAfter i u).st = .idle) :
    i = .encEnd ∨ i = .sysReset := by
  cases i
  case encEnd => exact .inl rfl
  case sysReset => exact .inr rfl
  all_goals simp [encAfter, hu] at h

theorem encAfter_opens {i : Instr} {u : EncUnit} (hu : u.st = .idle) (h : (encAfter i u).st = .body) :
    ∃ d, i = .encStart d := by
  cases i
  case encStart d => exact ⟨d, rfl⟩
  case sysReset => cases h
  all_goals simp [encAfter, hu] at h

/-- Settles O21: `exec_enc` gives the next state; an operation that the state declines changes the response port alone.
-/
theorem openFrameIsLeftOnlyByEndOrReset : Obligations.OpenFrameIsLeftOnlyByEndOrReset := by
  intro i s t h
  have henc := exec_enc h
  refine ⟨fun hs ht => encAfter_closes hs (henc ▸ ht), fun hs ht => encAfter_opens hs (henc ▸ ht), fun hs hi => ?_,
    fun hs hi => ?_⟩
  · obtain rfl | ⟨d, rfl⟩ := hi
    · exact Host.Outcome.next.inj (h.symm.trans ((exec_encEnd_of_idle hs).trans (next_responded_seqError s)))
    · exact Host.Outcome.next.inj (h.symm.trans ((exec_encByte_of_idle hs d).trans (next_responded_seqError s)))
  · obtain ⟨d, rfl⟩ := hi
    exact Host.Outcome.next.inj (h.symm.trans ((exec_encStart_of_body hs d).trans (next_responded_seqError s)))

/-! ### The encoder emits the frame -/

theorem runOps_encBytes (p : List Byte) {s : State} (h : s.enc.st = .body) : ∃ t,
    runOps (p.map .encByte) s = (p.map fun d => ⟨0x00, 0, esc d⟩, .next t) ∧ t.enc.st = .body ∧
    t.enc.acc.toNat = csumFold s.enc.acc.toNat p := by
  induction p generalizing s with
  | nil => exact ⟨s, rfl, h, rfl⟩
  | cons d p ih =>
    obtain ⟨t, hrun, hst, hacc⟩ :=
      ih (s := (s.setEnc ⟨.body, accStep s.enc.acc d⟩).responded .ok 0 (esc d)) rfl
    refine ⟨t, ?_, hst, by simpa using hacc⟩
    rw [List.map_cons, runOps_cons_of_next (exec_encByte_of_body h d), hrun]
    rfl

/-- What `ENC.END` sends: the escaped checksum and the end delimiter. -/
def frameTail (body : List Byte) : List Byte :=
  esc (crcHi (checksum body)) ++ esc (crcLo (checksum body)) ++ endDelimiter

/-- The responses to `ENC.FRAME c, p`: every operation answers `OK` and sends its part of the frame. -/
def frameResponses (c : Byte) (p : List Byte) : List Response :=
  ⟨0x00, 0, startDelimiter ++ esc c⟩ :: p.map (fun d => ⟨0x00, 0, esc d⟩) ++
    [⟨0x00, 0, frameTail (c :: p)⟩]

theorem frameResponses_ok (c : Byte) (p : List Byte) : ∀ r ∈ frameResponses c p, r.status = 0x00 ∧ r.res = 0 := by
  intro r hr
  simp only [frameResponses, List.mem_append, List.mem_cons, List.mem_map, List.not_mem_nil, or_false] at hr
  obtain (rfl | ⟨d, -, rfl⟩) | rfl := hr <;> exact ⟨rfl, rfl⟩

theorem flatMap_tx_frameResponses (c : Byte) (p : List Byte) :
    (frameResponses c p).flatMap Response.tx = encodeFrame c p := by
  simp [frameResponses, frameTail, encodeFrame, withChecksum, List.flatMap_map, escapeAll]

theorem runOps_encFrame (c : Byte) (p : List Byte) {s : State} (h : s.enc.st = .idle) : ∃ t,
    runOps (encFrame c p) s = (frameResponses c p, .next t) ∧ t.enc.st = .idle := by
  obtain ⟨t, hrun, hst, hacc⟩ :=
    runOps_encBytes p (s := (s.setEnc ⟨.body, accStep accInit c⟩).responded .ok 0 (startDelimiter ++ esc c)) rfl
  have hsum : t.enc.acc.toNat = checksum (c :: p) := by simpa [checksum] using hacc
  have hend := exec_encEnd_of_body hst
  rw [hsum] at hend
  refine ⟨(t.setEnc ⟨.idle, t.enc.acc⟩).responded .ok 0 (frameTail (c :: p)), ?_, rfl⟩
  rw [encFrame, List.cons_append, runOps_cons_of_next (exec_encStart_of_idle h c), runOps_append hrun,
    runOps_cons_of_next hend]
  rfl

/-- Settles O19: the `ENC` operations alone determine the encoder's registers and what is sent
(`runOps_filter_concerns`). -/
theorem encoderRefinesEncode : Obligations.EncoderRefinesEncode := by
  refine ⟨fun c p s h => ?_, fun c p ops s t rs h hops hrun => ?_⟩
  · obtain ⟨t, hrun, hst⟩ := runOps_encFrame c p h
    refine ⟨_, t, hrun, by simp [frameResponses], frameResponses_ok c p, flatMap_tx_frameResponses c p, hst⟩
  · obtain ⟨rs', t', hrun', hsame, -, htx⟩ := runOps_filter_concerns (u := .enc) nofun hrun (.refl .enc s) rfl
    obtain ⟨v, hv, hst⟩ := runOps_encFrame c p h
    rw [hops, hv] at hrun'
    cases hrun'
    have hsent : rs.flatMap Response.tx = encodeFrame c p := (htx rfl).symm.trans (flatMap_tx_frameResponses c p)
    have henc : t'.enc = t.enc := hsame
    exact ⟨henc ▸ hst, by rw [runOps_txLog hrun, hsent], hsent⟩

end Sys2Proof.Machine
end

section
/-!
PROOF. `decode(buffer)` (42_frame_decoder.md R178, R179): it inverts `encode`, finds a frame amid noise, needs more data
while a frame is not complete, and loses a frame with a stray `0xFE` before it.
-/

namespace Sys2Proof.Machine

/-! ### Scanning a buffer -/

section
variable {cap : Nat} {ds : List Byte} {u v w : DecUnit}

/-- Bytes that complete nothing are passed over. -/
theorem Waits.scanBytes_append (h : Waits cap ds u v) (rest : List Byte) :
    scanBytes cap (ds ++ rest) u = scanBytes cap rest v := by
  induction h with
  | nil u => rfl
  | cons hd _ ih => simpa [scanBytes, hd, needMore] using ih

/-- While nothing completes, the outcome is that more data is needed (42_frame_decoder.md R162). -/
theorem Waits.scanBytes_eq (h : Waits cap ds u v) : scanBytes cap ds u = .ok .needMoreData := by
  simpa [scanBytes] using h.scanBytes_append []

/-- Any first part of such bytes completes nothing either. -/
theorem Waits.exists_of_isPrefix {bs : List Byte} (h : Waits cap ds u v) (hb : bs <+: ds) : ∃ w, Waits cap bs u w := by
  induction h generalizing bs with
  | nil u => obtain rfl := List.prefix_nil.1 hb; exact ⟨u, .nil u⟩
  | @cons d ds u v w hd _ ih =>
    match bs, hb with
    | [], _ => exact ⟨u, .nil u⟩
    | b :: bs, hb =>
      obtain ⟨rfl, hbs⟩ := List.cons_prefix_cons.1 hb
      obtain ⟨w', hw'⟩ := ih hbs
      exact ⟨w', .cons hd hw'⟩

/-- What the scan says of a completion (42_frame_decoder.md R162, R163). -/
def scanResult (st : Status) (u : DecUnit) : DecodeResult := if st = .frameOk then heldFrame u else .malformed st

theorem heldFrame_completeFrame (st : Status) (u : DecUnit) : heldFrame (completeFrame st u) = heldFrame u := rfl

/-- The scan stops at the first completion, whatever follows. -/
theorem scanBytes_complete {d : Byte} {st : Status} (h : pushByte cap d u = complete st u) (hst : st ≠ .needMore)
    (rest : List Byte) : scanBytes cap (d :: rest) u = .ok (scanResult st u) := by
  simp only [scanBytes, h, complete, if_neg hst, scanResult, heldFrame_completeFrame]
  split <;> rfl

/-- A frame read up to its last byte is answered by the verdict on what was collected. -/
theorem Waits.scanBytes_ed1 {st : Status} (h : Waits cap ds u v) (hv : v.st = .bodyFe)
    (hst : frameVerdict cap v = .ok st) (hne : st ≠ .needMore) (rest : List Byte) :
    scanBytes cap (ds ++ (Config.ed1 :: rest)) u = .ok (scanResult st v) := by
  rw [h.scanBytes_append]
  exact scanBytes_complete (pushByte_ed1 hv hst) hne rest

end

/-! ### Decoding an encoded frame -/

section
variable {cap : Nat} {u : DecUnit} {c : Byte} {p g : List Byte}

theorem forgetFrame_st (u : DecUnit) : (forgetFrame u).st = .hunt := rfl

/-- A frame that fits is decoded, whatever bytes that complete nothing and leave the decoder hunting stand before it,
and whatever follows. -/
theorem scanBytes_encodeFrame (hg : Waits cap g u u) (h : u.st = .hunt) (hw : u.buf.wf = true) (hc : p.length + 3 ≤ cap)
    (tail : List Byte) : scanBytes cap (g ++ encodeFrame c p ++ tail) u = .ok (.frame c p) := by
  have hcol := collected_headRead hw hc c
  have hscan := (hg.append (waits_frameHead h c p)).scanBytes_ed1 rfl
    (frameVerdict_of_collected hcol (by simp) hc) nofun tail
  rw [scanResult, if_pos rfl, heldFrame_of_collected hcol] at hscan
  simpa [encodeFrame_eq] using hscan

end

/-- Settles O30: within the capacity the frame is collected and judged `FRAME_OK`; beyond it `DEC_OVF` is set. -/
theorem decodeInvertsEncode : Obligations.DecodeInvertsEncode := by
  refine fun cap u c p hw => ⟨fun hc => ?_, fun hc => ?_⟩
  · simpa [decodeBuffer] using scanBytes_encodeFrame (g := []) (.nil _) (forgetFrame_st u) hw hc []
  · rw [decodeBuffer, encodeFrame_eq]
    exact (waits_frameHead (forgetFrame_st u) c p).scanBytes_ed1 rfl (frameVerdict_of_ovf (ovf_headRead hc c _)) nofun []

section
variable {cap : Nat} {u : DecUnit} {c : Byte} {p g : List Byte}

/-! ### Noise before a frame (42_frame_decoder.md R178) -/

theorem quiet_tail {d : Byte} (h : quiet (d :: g)) : quiet g := by
  obtain ⟨hadj, hlast⟩ := h
  refine ⟨fun i => hadj (i + 1), fun hg => hlast ?_⟩
  rw [List.getLast?_cons, hg]
  rfl

/-- A quiet `0xFE` is not the last byte, and the byte after it is another. -/
theorem quiet_flag_cons {d : Byte} (h : quiet (Config.flag :: d :: g)) : d ≠ Config.flag :=
  fun hd => h.1 0 rfl (congrArg some hd)

theorem not_quiet_flag : ¬ quiet [Config.flag] := fun h => h.2 rfl

/-- Noise leaves a hunting decoder as it is, since a `0xFE` in it is given up at the next byte; the second clause is
noise whose first `0xFE` has been pushed (42_frame_decoder.md R165, R166). -/
theorem waits_quiet_both (h : u.st = .hunt) : (quiet g → Waits cap g u u) ∧
    (quiet (Config.flag :: g) → Waits cap g { u with st := .huntFe } u) := by
  induction g with
  | nil => exact ⟨fun _ => .nil u, fun hg => absurd hg not_quiet_flag⟩
  | cons d g ih =>
    obtain ⟨ihHunt, ihFe⟩ := ih
    refine ⟨fun hg => ?_, fun hg => ?_⟩
    · by_cases hd : d = Config.flag
      · subst hd
        exact .cons ((pushByte_of_hunt h).trans (by rw [pushHunt, if_pos rfl])) (ihFe hg)
      · exact .cons ((pushByte_of_hunt h).trans (by rw [pushHunt, if_neg hd])) (ihHunt (quiet_tail hg))
    · have hlost : pushHuntFe d { u with st := .huntFe } = u := by
        rw [pushHuntFe, if_neg (quiet_flag_cons hg), ← h]
      exact .cons ((pushByte_of_huntFe rfl).trans (by rw [hlost])) (ihHunt (quiet_tail (quiet_tail hg)))

theorem waits_quiet (h : u.st = .hunt) (hg : quiet g) : Waits cap g u u := (waits_quiet_both h).1 hg

/-! ### A stray `0xFE` before a frame (42_frame_decoder.md R178) -/

/-- After three `0xFE` a frame is open, empty, and one `0xFE` is pending. -/
def strayOpened (u : DecUnit) : DecUnit := { openFrame u with st := .bodyFe }

theorem waits_strayFlag (h : u.st = .hunt) (hg : quiet g) :
    Waits cap (g ++ [Config.flag] ++ startDelimiter) u (strayOpened u) := by
  have hthree : Waits cap (startDelimiter ++ [Config.flag]) u (strayOpened u) :=
    (waits_startDelimiter h).append (.single (pushByte_of_body rfl))
  rw [List.append_assoc]
  exact (waits_quiet h hg).append hthree

/-- The stray byte makes the frame's first body byte the second byte of an escape pair: unless that is `0xF0` or `0x0D`,
the frame is malformed. A command byte `0xFE` stands escaped, and its first byte is `0xFE` as well. -/
theorem scanBytes_strayFlag (h : u.st = .hunt) (hg : quiet g) (h1 : c ≠ Config.ed1) (h2 : c ≠ Config.esc1)
    (rest : List Byte) : scanBytes cap (g ++ [Config.flag] ++ startDelimiter ++ (esc c ++ rest)) u =
      .ok (.malformed .malformedBadEscape) := by
  have hbad {d : Byte} (hd1 : d ≠ Config.ed1) (hd2 : d ≠ Config.esc1) (rest : List Byte) :
      scanBytes cap (d :: rest) (strayOpened u) = .ok (.malformed .malformedBadEscape) :=
    scanBytes_complete (pushByte_badEscape rfl hd2 hd1) nofun rest
  rw [(waits_strayFlag h hg).scanBytes_append]
  by_cases hc : c = Config.flag
  · rw [hc, esc_flag]
    exact hbad (by decide) (by decide) _
  · rw [esc_of_ne hc]
    exact hbad h1 h2 _

/-- A command byte `0x0D` ends the frame before any byte of it. -/
theorem scanBytes_strayFlag_ed1 (h : u.st = .hunt) (hg : quiet g) (rest : List Byte) :
    scanBytes cap (g ++ [Config.flag] ++ startDelimiter ++ (esc Config.ed1 ++ rest)) u =
      .ok (.malformed .malformedTooShort) :=
  (waits_strayFlag h hg).scanBytes_ed1 rfl (frameVerdict_of_short rfl (Nat.zero_lt_succ 2)) nofun rest

/-- What is collected of a frame whose command byte `0xF0` became an escaped `0xFE`. -/
def strayRead (cap : Nat) (bs : List Byte) (u : DecUnit) : DecUnit :=
  { collect cap (Config.flag :: bs) (openFrame u) with st := .bodyFe }

/-- A command byte `0xF0` makes an escape pair with the stray byte; the rest of the frame is read as it stands. -/
theorem waits_strayFlag_esc1 (h : u.st = .hunt) (hg : quiet g) (bs : List Byte) :
    Waits cap (g ++ [Config.flag] ++ startDelimiter ++ (esc Config.esc1 ++ escapeAll bs ++ [Config.flag])) u
      (strayRead cap bs u) := by
  have hpair : pushByte cap Config.esc1 (strayOpened u) =
      needMore (appendByte cap Config.flag (openFrame u)) := by
    rw [strayOpened, pushByte_esc1 rfl, pushEscape_bodyFe rfl]
  have hbody : (appendByte cap Config.flag (openFrame u)).st = .body := appendByte_st ..
  refine (waits_strayFlag h hg).append ((Waits.append (.single hpair) (waits_escapeAll hbody bs)).append ?_)
  exact .single (pushByte_of_body ((collect_st ..).trans hbody))

theorem collected_strayRead {bs : List Byte} (hw : u.buf.wf = true) (hc : bs.length + 1 ≤ cap) :
    Collected (Config.flag :: bs) (strayRead cap bs u) := by
  obtain ⟨hovf, hwf, hbytes⟩ :=
    collected_collect (collected_openFrame hw) (cs := Config.flag :: bs) (cap := cap) (by simp; omega)
  exact ⟨hovf, hwf, hbytes⟩

/-- A collected body is judged by the two bytes that stand after it. -/
theorem checksumMatches_of_collected_pair {body : List Byte} {hi lo : Byte} (h : Collected (body ++ [hi, lo]) u)
    (hm : checksumMatches u = true) : crcHi (checksum body) = hi ∧ crcLo (checksum body) = lo := by
  have hn : u.cnt = body.length + 2 := h.count.trans (by simp)
  have hbytes := h.bytes
  rw [hn, Memory.bytes_succ, Memory.bytes_succ, List.append_assoc] at hbytes
  obtain ⟨hbody, hpair⟩ := List.append_inj hbytes (Memory.length_bytes ..)
  obtain ⟨hhi, hlo⟩ : u.buf.read body.length = hi ∧ u.buf.read (body.length + 1) = lo := by simpa using hpair
  simpa [checksumMatches, hn, hbody, hhi, hlo] using hm

/-- A collected frame is answered by its own checksum bytes against its body. -/
theorem scanResult_of_collected_pair {hi lo : Byte} (h : Collected (c :: p ++ [hi, lo]) u) (hc : p.length + 3 ≤ cap) :
    ∃ st, frameVerdict cap u = .ok st ∧ st ≠ .needMore ∧ scanResult st u =
      if crcHi (checksum (c :: p)) = hi ∧ crcLo (checksum (c :: p)) = lo then .frame c p
      else .malformed .malformedChecksum := by
  have hn : u.cnt = p.length + 3 := h.count.trans (by simp)
  split
  next hm =>
    obtain ⟨rfl, rfl⟩ := hm
    have hcol : Collected (withChecksum (c :: p)) u := h
    exact ⟨.frameOk, frameVerdict_of_collected hcol (by simp) hc, nofun, heldFrame_of_collected hcol⟩
  next hm =>
    have hv := frameVerdict_of_fits (cap := cap) h.noOverflow (by omega) (by omega)
    rw [if_neg (mt (checksumMatches_of_collected_pair h) hm)] at hv
    exact ⟨.malformedChecksum, hv, nofun, rfl⟩

/-- A command byte `0xF0` is read as `0xFE`, and the checksum of the frame sent is held against the changed body. -/
theorem scanBytes_strayFlag_esc1 (h : u.st = .hunt) (hg : quiet g) (hw : u.buf.wf = true) (hc : p.length + 3 ≤ cap)
    (hi lo : Byte) (rest : List Byte) :
    scanBytes cap (g ++ [Config.flag] ++ startDelimiter ++
        (esc Config.esc1 ++ escapeAll (p ++ [hi, lo]) ++ [Config.flag]) ++ Config.ed1 :: rest) u =
      .ok (if crcHi (checksum (Config.flag :: p)) = hi ∧ crcLo (checksum (Config.flag :: p)) = lo
        then .frame Config.flag p else .malformed .malformedChecksum) := by
  have hcol : Collected (Config.flag :: p ++ [hi, lo]) (strayRead cap (p ++ [hi, lo]) u) :=
    collected_strayRead hw (by simp; omega)
  obtain ⟨st, hv, hne, hres⟩ := scanResult_of_collected_pair hcol hc
  rw [(waits_strayFlag_esc1 h hg _).scanBytes_ed1 rfl hv hne, hres]

/-- The wire form of a frame by its command byte. -/
theorem encodeFrame_eq_esc (c : Byte) (p : List Byte) : encodeFrame c p = startDelimiter ++ (esc c ++
    escapeAll (p ++ [crcHi (checksum (c :: p)), crcLo (checksum (c :: p))]) ++ [Config.flag] ++ [Config.ed1]) := by
  simp [encodeFrame, withChecksum, endDelimiter]

end

/-- Settles O31: noise and every proper part of a frame complete nothing; after a stray `0xFE` the command byte is the
second byte of an escape pair. -/
theorem decodeFindsTheFrameInABuffer : Obligations.DecodeFindsTheFrameInABuffer := by
  intro cap u c p g tail hw hg hc
  have hhunt := forgetFrame_st u
  have hnoise : Waits cap g (forgetFrame u) (forgetFrame u) := waits_quiet hhunt hg
  refine ⟨scanBytes_encodeFrame hnoise hhunt hw hc tail, fun b hb hne => ?_, fun h1 h2 => ?_, ?_, ?_⟩
  · have hbhead : b <+: g ++ frameHead c p := by
      rw [encodeFrame_eq, ← List.append_assoc] at hb hne
      exact (List.prefix_concat_iff.1 hb).resolve_left hne
    obtain ⟨w, hwait⟩ := (hnoise.append (waits_frameHead hhunt c p)).exists_of_isPrefix hbhead
    exact hwait.scanBytes_eq
  · rw [encodeFrame_eq_esc]
    simpa [decodeBuffer] using scanBytes_strayFlag (cap := cap) hhunt hg h1 h2 _
  · rintro rfl
    rw [encodeFrame_eq_esc]
    simpa [decodeBuffer] using scanBytes_strayFlag_ed1 (cap := cap) hhunt hg _
  · rintro rfl
    rw [encodeFrame_eq_esc]
    simpa [decodeBuffer] using scanBytes_strayFlag_esc1 (cap := cap) hhunt hg hw hc _ _ tail

end Sys2Proof.Machine
end

section
/-!
PROOF. Frames (10_state.md R21 to R30, 20_memory.md R60): which registers and buffer bytes an operation leaves, what a
read leaves, and when `DEC_ERR` changes.
-/

namespace Sys2Proof.Machine

/-! ### Reads repeat (20_memory.md, section 3) -/

theorem sameUnit_responded (u : OpUnit) (s : State) (st : Status) (res : Res) (tx : List Byte) :
    SameUnit u s (s.responded st res tx) := by cases u <;> simp [SameUnit]

theorem unit_ne_sys_of_isRead {i : Instr} (h : isRead i = true) : i.unit ≠ .sys := by
  cases i <;> simp [isRead, Instr.unit] at h ⊢

/-- A read answers alike on every state that holds the same registers of its unit. -/
theorem exec_read_of_sameUnit {i : Instr} {s v : State} {st : Status} {res : Res} (hs : SameUnit i.unit s v)
    (hc : v.cfg = s.cfg) (h : exec i s = .next (s.responded st res [])) : exec i v = .next (v.responded st res []) := by
  have hreplay := respond_replay hs st res []
  rw [respond_eq, respond_eq, mapNext_next] at hreplay
  rw [exec_next_of_sameUnit h hs hc, hreplay]

/-- Settles O52: a read is one response (`exec_read`), and operations of other units leave its unit (`runOps_sameUnit`).
-/
theorem readsChangeNothingAndRepeat : Obligations.ReadsChangeNothingAndRepeat := by
  intro i s t hi h
  have hread : isRead i = true := by
    cases i <;> simp [isRead] at hi ⊢
  obtain ⟨st, res, rfl⟩ := exec_read hread h
  refine ⟨State.responded_nil .., fun ops rs v hops hrun => ?_⟩
  obtain ⟨hsame, hc⟩ := runOps_sameUnit (unit_ne_sys_of_isRead hread) hops hrun
  rw [exec_read_of_sameUnit ((sameUnit_responded ..).trans hsame) hc h]
  exact congrArg _ (State.responded_nil ..)

/-! ### The registers of the event unit that its operations keep -/

section
variable (d : Byte) (u : EvtUnit)

@[simp] theorem pushRecord_recCnt : (pushRecord d u).recCnt = min (u.recCnt + 1) 9 := rfl
@[simp] theorem pushRecord_valid : (pushRecord d u).valid = false := rfl
@[simp] theorem pushRecord_yearValid : (pushRecord d u).yearValid = false := rfl
@[simp] theorem pushRecord_fields : (pushRecord d u).fields = u.fields := rfl
@[simp] theorem pushRecord_ref : (pushRecord d u).ref = u.ref := rfl
@[simp] theorem pushRecord_year : (pushRecord d u).year = u.year := rfl
@[simp] theorem pushRecord_dateOk : (pushRecord d u).dateOk = u.dateOk := rfl

/-- `EVT.UNPACK` writes the two flags and, on the right length, the fields (43_event_unpacker.md R204). -/
theorem unpackUnit_eq : unpackUnit u =
    { u with fields := (unpackUnit u).fields, valid := (unpackUnit u).valid, yearValid := false } := by
  unfold unpackUnit
  split <;> rfl

@[simp] theorem unpackUnit_record : (unpackUnit u).record = u.record := by rw [unpackUnit_eq]
@[simp] theorem unpackUnit_recCnt : (unpackUnit u).recCnt = u.recCnt := by rw [unpackUnit_eq]
@[simp] theorem unpackUnit_ref : (unpackUnit u).ref = u.ref := by rw [unpackUnit_eq]
@[simp] theorem unpackUnit_yearValid : (unpackUnit u).yearValid = false := by rw [unpackUnit_eq]
@[simp] theorem unpackUnit_year : (unpackUnit u).year = u.year := by rw [unpackUnit_eq]
@[simp] theorem unpackUnit_dateOk : (unpackUnit u).dateOk = u.dateOk := by rw [unpackUnit_eq]

/-- `EVT.YEAR` writes the year result alone (43_event_unpacker.md R215). -/
theorem yearUnit_eq : yearUnit u =
    { u with yearValid := (yearUnit u).yearValid, year := (yearUnit u).year, dateOk := (yearUnit u).dateOk } := by
  unfold yearUnit
  split <;> rfl

@[simp] theorem yearUnit_record : (yearUnit u).record = u.record := by rw [yearUnit_eq]
@[simp] theorem yearUnit_recCnt : (yearUnit u).recCnt = u.recCnt := by rw [yearUnit_eq]
@[simp] theorem yearUnit_valid : (yearUnit u).valid = u.valid := by rw [yearUnit_eq]
@[simp] theorem yearUnit_fields : (yearUnit u).fields = u.fields := by rw [yearUnit_eq]
@[simp] theorem yearUnit_ref : (yearUnit u).ref = u.ref := by rw [yearUnit_eq]

end

/-- Settles O56: the registers after an operation are `csAfter`, `encAfter` and `evtAfter` of those before, and none of
the constructors left in a clause writes the register it speaks of. -/
theorem registerFrame : Obligations.RegisterFrame := by
  intro i s t h
  have hdec : keepsDec i = true → t.dec = s.dec := fun hk => exec_keepsDec hk h
  rw [exec_cs h, exec_enc h, exec_evt h]
  refine ⟨exec_cfg h, exec_inputs h, ?_⟩
  revert hdec
  clear h
  cases i
  case encEnd => cases hst : s.enc.st <;> simp [csAfter, encAfter, evtAfter, refAfter, keepsDec, hst]
  all_goals simp [csAfter, encAfter, evtAfter, refAfter, keepsDec]

/-! ### Buffer bytes (20_memory.md R60) -/

/-- After at most one store, made only under a condition, the other bytes read as before. -/
theorem reads_of_store {m m' : Memory} {a : Nat} {P : Prop} (h : m' = m ∨ (P ∧ ∃ b, m' = m.write a b)) :
    (P → ∀ k, k ≠ a → m'.read k = m.read k) ∧ (¬ P → ∀ k, m'.read k = m.read k) := by
  obtain rfl | ⟨hP, b, rfl⟩ := h
  · exact ⟨fun _ _ _ => rfl, fun _ _ => rfl⟩
  · exact ⟨fun _ k hk => Memory.read_write_ne hk, fun hn => absurd hP hn⟩

theorem appendByte_buf (cap : Nat) (b : Byte) (u : DecUnit) : (appendByte cap b u).buf = u.buf ∨
    (u.cnt < cap ∧ (appendByte cap b u).buf = u.buf.write u.cnt b) := by
  obtain ⟨hlt, ha⟩ | ⟨_, ha⟩ := appendByte_cases cap b u <;> rw [ha]
  · exact .inr ⟨hlt, rfl⟩
  · exact .inl rfl

/-- A push stores a byte only where it appends one (42_frame_decoder.md R167 to R169). -/
theorem pushByte_buf {cap : Nat} {d : Byte} {u u' : DecUnit} {st : Status} {res : Res}
    (h : pushByte cap d u = .ok (u', st, res)) : u'.buf = u.buf ∨
      ((u.cnt < cap ∧ ((u.st = .body ∧ d ≠ 0xFE) ∨ (u.st = .bodyFe ∧ d = 0xF0))) ∧
        ∃ b, u'.buf = u.buf.write u.cnt b) := by
  obtain ⟨_, rfl, _⟩ | ⟨_, rfl, _⟩ | ⟨hst, rfl, _⟩ | ⟨hst, hd, rfl, _⟩ | ⟨_, rfl, _⟩ := pushByte_cases h
  · left; unfold pushHunt; split <;> rfl
  · left; unfold pushHuntFe; split <;> rfl
  · unfold pushBody
    split
    · exact .inl rfl
    next hd => exact (appendByte_buf cap d u).imp_right fun ⟨hlt, hb⟩ => ⟨⟨hlt, .inl ⟨hst, hd⟩⟩, d, hb⟩
  · exact (appendByte_buf cap Config.flag u).imp_right fun ⟨hlt, hb⟩ => ⟨⟨hlt, .inr ⟨hst, hd⟩⟩, _, hb⟩
  · exact .inl rfl

theorem pushRecord_record (d : Byte) (u : EvtUnit) : (pushRecord d u).record = u.record ∨
    (u.recCnt < 8 ∧ (pushRecord d u).record = u.record.write u.recCnt d) := by
  by_cases h : u.recCnt < 8
  · exact .inr ⟨h, if_pos h⟩
  · exact .inl (if_neg h)

/-- Of the operations but `SYS.RESET`, only `EVT.PUSH` stores a record byte. -/
theorem evtAfter_record {i : Instr} (hi : i ≠ .sysReset) (u : EvtUnit) : (evtAfter i u).record = u.record ∨
    ((u.recCnt < 8 ∧ ∃ d, i = .evtPush d) ∧ ∃ b, (evtAfter i u).record = u.record.write u.recCnt b) := by
  cases i
  case evtPush d => exact (pushRecord_record d u).imp_right fun ⟨hlt, hr⟩ => ⟨⟨hlt, d, rfl⟩, d, hr⟩
  case sysReset => exact absurd rfl hi
  all_goals exact .inl (by simp [evtAfter, refAfter])

/-- Settles O57: an operation makes at most one store in each buffer, at the buffer's count. -/
theorem byteBufferFrame : Obligations.ByteBufferFrame := by
  intro i s t h hi decStores recStores
  have hdec : t.dec.buf = s.dec.buf ∨ (decStores ∧ ∃ b, t.dec.buf = s.dec.buf.write s.dec.cnt b) := by
    obtain ⟨d, st, res, rfl, hp, -⟩ | ⟨-, ht⟩ | ⟨rfl, -⟩ | ⟨-, ht⟩ := exec_dec_cases h
    · refine (pushByte_buf hp).imp_right fun ⟨⟨hlt, hst⟩, hb⟩ => ⟨⟨hlt, ?_⟩, hb⟩
      exact hst.imp (fun ⟨hst, hd⟩ => ⟨hst, d, rfl, hd⟩) fun ⟨hst, hd⟩ => ⟨hst, congrArg _ hd⟩
    · exact .inl (by rw [ht]; rfl)
    · exact absurd rfl hi
    · exact .inl (by rw [ht])
  have hevt : t.evt.record = s.evt.record ∨ (recStores ∧ ∃ b, t.evt.record = s.evt.record.write s.evt.recCnt b) := by
    rw [exec_evt h]
    exact evtAfter_record hi s.evt
  obtain ⟨hd, hd'⟩ := reads_of_store hdec
  obtain ⟨he, he'⟩ := reads_of_store hevt
  exact ⟨hd, hd', he, he'⟩

/-! ### `DEC_ERR` (10_state.md R25) -/

/-- A completion records its status; any other push answers `NEED_MORE` and keeps `DEC_ERR`. -/
theorem pushByte_err {cap : Nat} {d : Byte} {u u' : DecUnit} {st : Status} {res : Res}
    (h : pushByte cap d u = .ok (u', st, res)) :
    (st = .needMore ∧ u'.err = u.err) ∨ (st.isCompletion = true ∧ u'.err = st.code) := by
  obtain ⟨_, rfl, hst, _⟩ | ⟨_, rfl, hst, _⟩ | ⟨_, rfl, hst, _⟩ | ⟨_, _, rfl, hst, _⟩ | ⟨hc, rfl, _⟩ := pushByte_cases h
  · refine .inl ⟨hst, ?_⟩; unfold pushHunt; split <;> rfl
  · refine .inl ⟨hst, ?_⟩; unfold pushHuntFe; split <;> rfl
  · refine .inl ⟨hst, ?_⟩; unfold pushBody; split <;> simp
  · exact .inl ⟨hst, by simp [pushEscape]⟩
  · exact .inr ⟨hc.status, rfl⟩

theorem Status.code_ne_of_isCompletion {st : Status} (h : st.isCompletion = true) : st.code ≠ 0x01 := by
  intro hcode
  obtain rfl := Status.code_injective (b := .needMore) hcode
  cases h

/-- Settles O33: `pushByte_err` for a push; every other operation resets the register or keeps the decoder. -/
theorem decErrRecordsTheLastCompletion : Obligations.DecErrRecordsTheLastCompletion := by
  intro i s t r h hr
  obtain ⟨d, st, res, rfl, hp, hrsp⟩ | ⟨rfl, ht⟩ | ⟨rfl, ht⟩ | ⟨hk, ht⟩ := exec_dec_cases h
  · obtain rfl := Option.some.inj (hrsp.symm.trans hr)
    obtain ⟨rfl, herr⟩ | ⟨hc, herr⟩ := pushByte_err hp
    · exact ⟨fun _ hne => absurd rfl hne, fun _ _ => herr, nofun, fun hd => absurd rfl (hd d)⟩
    · have hne := Status.code_ne_of_isCompletion hc
      exact ⟨fun _ _ => herr, fun _ he => absurd he hne, nofun, fun hd => absurd rfl (hd d)⟩
  · refine ⟨fun ⟨_, hd⟩ => (nomatch hd), fun ⟨_, hd⟩ => (nomatch hd), fun _ => ?_, fun _ hne => absurd rfl hne⟩
    rw [ht]
    rfl
  · refine ⟨fun ⟨_, hd⟩ => (nomatch hd), fun ⟨_, hd⟩ => (nomatch hd), fun _ => ?_, fun _ _ hne => absurd rfl hne⟩
    rw [ht]
    rfl
  · refine ⟨?_, ?_, ?_, fun _ _ _ => by rw [ht]⟩
    · rintro ⟨d, rfl⟩; cases hk
    · rintro ⟨d, rfl⟩; cases hk
    · rintro (rfl | rfl) <;> cases hk

end Sys2Proof.Machine
end

section
/-!
PROOF. The invariant of 10_state.md R31 and the coherence of the latched results (92_eei_decisions.md D16): each is a
condition on every unit by itself, and every operation keeps it unit by unit.
-/

namespace Sys2Proof.Machine

/-! ### The invariant, unit by unit -/

/-- What the invariant asks of the decoder. -/
structure DecInv (cap : Nat) (u : DecUnit) : Prop where
  heldFrame : u.valid = true → HeldFrame cap u
  count : u.cnt ≤ cap
  form : u.buf.wf = true
  size : u.buf.within cap = true

/-- What the invariant asks of the event unit. -/
structure EvtInv (u : EvtUnit) : Prop where
  yearNeedsEvent : u.yearValid = true → u.valid = true
  eventNeedsEight : u.valid = true → u.recCnt = 8
  count : u.recCnt ≤ 9
  form : u.record.wf = true
  size : u.record.within Config.recLen = true

theorem inv_iff {s : State} : Inv s ↔ s.cfg.wf ∧ s.cs.acc.toNat ≤ 0x101FD ∧ s.enc.acc.toNat ≤ 0x101FD ∧
    DecInv s.cfg.decCap s.dec ∧ EvtInv s.evt :=
  ⟨fun h => ⟨h.capacity, h.csAcc, h.encAcc, ⟨h.heldFrame, h.decCount, h.bufForm, h.bufSize⟩,
      h.yearNeedsEvent, h.eventNeedsEight, h.recCount, h.recForm, h.recSize⟩,
    fun ⟨hcfg, hcs, henc, hdec, hevt⟩ => ⟨hcfg, hcs, henc, hevt.yearNeedsEvent, hevt.eventNeedsEight, hdec.heldFrame,
      hdec.count, hevt.count, hdec.form, hdec.size, hevt.form, hevt.size⟩⟩

theorem Inv.dec {s : State} (h : Inv s) : DecInv s.cfg.decCap s.dec := (inv_iff.1 h).2.2.2.1

/-! ### CS and ENC -/

theorem accStep_le (a : Acc) (d : Byte) : (accStep a d).toNat ≤ 0x101FD := by
  rw [accStep_toNat]
  exact csumStep_le _ (Nat.le_of_lt_succ d.isLt)

theorem accInit_le : accInit.toNat ≤ 0x101FD := by decide

theorem csReset_acc_le : CsUnit.reset.acc.toNat ≤ 0x101FD := by decide

theorem encReset_acc_le : EncUnit.reset.acc.toNat ≤ 0x101FD := by decide

theorem csAfter_acc_le {u : CsUnit} (h : u.acc.toNat ≤ 0x101FD) (i : Instr) : (csAfter i u).acc.toNat ≤ 0x101FD := by
  cases i
  case csByte d => exact accStep_le u.acc d
  case csInit => exact accInit_le
  case sysReset => exact csReset_acc_le
  all_goals exact h

theorem encAfter_acc_le {u : EncUnit} (h : u.acc.toNat ≤ 0x101FD) (i : Instr) : (encAfter i u).acc.toNat ≤ 0x101FD := by
  unfold encAfter
  split
  · exact accStep_le ..
  · exact accStep_le ..
  · exact h
  · exact encReset_acc_le
  · exact h

/-! ### DEC -/

section
variable {cap : Nat} {d : Byte} {u u' : DecUnit} {st : Status} {res : Res}

theorem decInv_reset : DecInv cap .reset := ⟨nofun, Nat.zero_le cap, rfl, rfl⟩

/-- A held frame stays held while the decoder hunts. -/
theorem DecInv.with_hunting (h : DecInv cap u) {st : DecSt} (hst : st = .hunt ∨ st = .huntFe) :
    DecInv cap { u with st := st } := by
  refine ⟨fun hv => ?_, h.count, h.form, h.size⟩
  obtain ⟨_, hovf, h3, hfits, herr, hhi, hlo⟩ := h.heldFrame hv
  exact ⟨hst, hovf, h3, hfits, herr, hhi, hlo⟩

/-- Inside a frame no frame is held. -/
theorem DecInv.not_valid (h : DecInv cap u) (hst : u.st = .body ∨ u.st = .bodyFe) : u.valid = false := by
  rw [← Bool.not_eq_true]
  intro hv
  have hhunt := (h.heldFrame hv).hunting
  obtain hst | hst := hst <;> simp [hst] at hhunt

theorem decInv_of_not_valid (hv : u.valid = false) (hc : u.cnt ≤ cap) (hw : u.buf.wf = true)
    (hs : u.buf.within cap = true) : DecInv cap u :=
  ⟨fun hv' => absurd hv' (by simp [hv]), hc, hw, hs⟩

theorem DecInv.appendByte (h : DecInv cap u) (hv : u.valid = false) (b : Byte) : DecInv cap (appendByte cap b u) := by
  obtain ⟨hlt, ha⟩ | ⟨_, ha⟩ := appendByte_cases cap b u <;> rw [ha]
  · exact decInv_of_not_valid hv hlt (Memory.wf_write h.form) (Memory.within_write hlt h.size)
  · exact decInv_of_not_valid hv h.count h.form h.size

theorem DecInv.openFrame (h : DecInv cap u) : DecInv cap (openFrame u) :=
  decInv_of_not_valid rfl (Nat.zero_le cap) h.form h.size

theorem DecInv.forgetFrame (h : DecInv cap u) : DecInv cap (forgetFrame u) :=
  decInv_of_not_valid rfl (Nat.zero_le cap) h.form h.size

/-- A completion holds a frame exactly when it was judged `FRAME_OK`, and then the checks of R170 make it one. -/
theorem DecInv.completeFrame (h : DecInv cap u) (hc : Completed cap d u st) : DecInv cap (completeFrame st u) := by
  by_cases hst : st = .frameOk
  · subst hst
    obtain ⟨_, hovf, h3, hfits, hm⟩ := hc.judged rfl
    have hbytes : crcHi (checksum (u.buf.bytes (u.cnt - 2))) = u.buf.read (u.cnt - 2) ∧
        crcLo (checksum (u.buf.bytes (u.cnt - 2))) = u.buf.read (u.cnt - 1) := by simpa [checksumMatches] using hm
    exact ⟨fun _ => ⟨.inl rfl, hovf, h3, hfits, rfl, hbytes.1.symm, hbytes.2.symm⟩, h.count, h.form, h.size⟩
  · rw [completeFrame_of_ne_frameOk hst]
    exact decInv_of_not_valid (h.not_valid (.inr hc.inEscape)) h.count h.form h.size

theorem DecInv.pushByte (h : DecInv cap u) (hp : pushByte cap d u = .ok (u', st, res)) : DecInv cap u' := by
  obtain ⟨hst, rfl, _⟩ | ⟨_, rfl, _⟩ | ⟨hst, rfl, _⟩ | ⟨hst, _, rfl, _⟩ | ⟨hc, rfl, _⟩ := pushByte_cases hp
  · unfold pushHunt
    split
    · exact h.with_hunting (.inr rfl)
    · exact h
  · unfold pushHuntFe
    split
    · exact h.openFrame
    · exact h.with_hunting (.inl rfl)
  · have hv := h.not_valid (.inl hst)
    unfold pushBody
    split
    · exact decInv_of_not_valid hv h.count h.form h.size
    · exact h.appendByte hv d
  · have hv := h.not_valid (.inr hst)
    obtain ⟨-, hcnt, hform, hsize⟩ := h.appendByte hv Config.flag
    exact decInv_of_not_valid ((appendByte_valid ..).trans hv) hcnt hform hsize
  · exact h.completeFrame hc

end

theorem exec_keeps_decInv {i : Instr} {s t : State} (h : DecInv s.cfg.decCap s.dec) (he : exec i s = .next t) :
    DecInv s.cfg.decCap t.dec := by
  obtain ⟨_, _, _, _, hp, _⟩ | ⟨_, ht⟩ | ⟨_, ht⟩ | ⟨_, ht⟩ := exec_dec_cases he
  · exact h.pushByte hp
  · rw [ht]; exact h.forgetFrame
  · rw [ht]; exact decInv_reset
  · rw [ht]; exact h

/-! ### EVT -/

section
variable {u : EvtUnit}

theorem evtInv_reset : EvtInv .reset := ⟨nofun, nofun, by decide, rfl, rfl⟩

theorem EvtInv.pushRecord (h : EvtInv u) (d : Byte) : EvtInv (pushRecord d u) := by
  refine ⟨nofun, nofun, Nat.min_le_right .., ?_, ?_⟩ <;>
    obtain hr | ⟨hlt, hr⟩ := pushRecord_record d u <;> rw [hr]
  · exact h.form
  · exact Memory.wf_write h.form
  · exact h.size
  · exact Memory.within_write hlt h.size

theorem EvtInv.unpackUnit (h : EvtInv u) : EvtInv (unpackUnit u) := by
  unfold Machine.unpackUnit
  split
  next hc => exact ⟨nofun, fun _ => hc, h.count, h.form, h.size⟩
  next => exact ⟨nofun, nofun, h.count, h.form, h.size⟩

theorem EvtInv.yearUnit (h : EvtInv u) : EvtInv (yearUnit u) := by
  unfold Machine.yearUnit
  split
  next hv => exact ⟨fun _ => hv.1, h.eventNeedsEight, h.count, h.form, h.size⟩
  next => exact h

theorem EvtInv.evtAfter (h : EvtInv u) (i : Instr) : EvtInv (evtAfter i u) := by
  cases i
  case evtClear => exact ⟨nofun, nofun, Nat.zero_le 9, h.form, h.size⟩
  case evtPush d => exact h.pushRecord d
  case evtUnpack => exact h.unpackUnit
  case evtYear => exact h.yearUnit
  case sysReset => exact evtInv_reset
  case evtRefyh d | evtRefyl d | evtRefmon d | evtRefday d | evtRefhour d | evtRefmin d =>
    exact ⟨nofun, h.eventNeedsEight, h.count, h.form, h.size⟩
  all_goals exact h

end

/-! ### The whole machine -/

theorem exec_keeps_inv {i : Instr} {s t : State} (h : Inv s) (he : exec i s = .next t) : Inv t := by
  obtain ⟨hcfg, hcs, henc, hdec, hevt⟩ := inv_iff.1 h
  rw [inv_iff, exec_cfg he, exec_cs he, exec_enc he, exec_evt he]
  exact ⟨hcfg, csAfter_acc_le hcs i, encAfter_acc_le henc i, exec_keeps_decInv hdec he, hevt.evtAfter i⟩

theorem SameRegisters.inv {s t : State} (h : SameRegisters s t) (hs : Inv s) : Inv t := by
  rw [inv_iff] at hs ⊢
  rwa [h.cfg, h.cs, h.enc, h.dec, h.evt]

theorem inv_of_reset {s : State} (h : s.cfg.wf) : Inv (resetInput s) :=
  inv_iff.2 ⟨h, csReset_acc_le, encReset_acc_le, decInv_reset, evtInv_reset⟩

theorem sameRegisters_withInputs (s : State) (l : List Input) : SameRegisters s { s with inputs := l } :=
  ⟨rfl, rfl, rfl, rfl, rfl⟩

theorem sameRegisters_responded (s : State) (st : Status) (res : Res) (tx : List Byte) :
    SameRegisters s (s.responded st res tx) := ⟨rfl, rfl, rfl, rfl, rfl⟩

/-- What a condition on registers needs to be kept by every step: that ports do not matter, and that a reset and every
operation keep it. -/
theorem step_keeps {P : State → Prop} (hsame : ∀ {s t}, SameRegisters s t → P s → P t)
    (hreset : ∀ {s}, P s → P (resetInput s)) (hexec : ∀ {i s t}, P s → exec i s = .next t → P t) {s t : State}
    (hs : P s) (h : step s = .next t) : P t := by
  have htaken (l : List Input) : P { s with inputs := l } := hsame (sameRegisters_withInputs s l) hs
  match hin : s.inputs with
  | [] =>
    cases (step_of_inputs_nil hin).symm.trans h
    exact hs
  | .rst :: rest =>
    cases (step_rst hin).symm.trans h
    exact hreset (htaken rest)
  | .command cw :: rest =>
    cases hd : decode cw with
    | ok i => exact hexec (htaken rest) ((step_of_decode_ok hin hd).symm.trans h)
    | error e =>
      cases (step_of_decode_error hd hin).symm.trans h
      exact hsame (sameRegisters_responded ..) (htaken rest)

/-- Settles O46: the invariant is kept by every operation (`exec_keeps_inv`) and holds after a reset. -/
theorem stepKeepsTheInvariant : Obligations.StepKeepsTheInvariant := fun _ _ =>
  step_keeps SameRegisters.inv (fun hs => inv_of_reset hs.capacity) exec_keeps_inv

/-! ### Coherence -/

/-- What coherence asks of the decoder. -/
structure DecCoherent (cap : Nat) (u : DecUnit) : Prop where
  overflow : u.ovf = true → u.cnt = cap
  lastCompletion : u.err ∈ [0x00#8, 0x02#8, 0x10#8, 0x11#8, 0x12#8, 0x13#8]

/-- What coherence asks of the event unit. -/
structure EvtCoherent (u : EvtUnit) : Prop where
  fields : u.valid = true → u.fields = unpackLoaded u.record
  reference : u.yearValid = true → u.ref.legal = true
  year : u.yearValid = true → u.year.toNat = resolvedYear u.fields u.ref.dateTime
  dateOk : u.yearValid = true → u.dateOk = validDt (u.fields.inYear u.year.toNat)

theorem coherent_iff {s : State} : Coherent s ↔ DecCoherent s.cfg.decCap s.dec ∧ EvtCoherent s.evt :=
  ⟨fun h => ⟨⟨h.overflow, h.lastCompletion⟩, h.fields, h.reference, h.year, h.dateOk⟩,
    fun ⟨hdec, hevt⟩ => ⟨hevt.fields, hevt.reference, hevt.year, hevt.dateOk, hdec.overflow, hdec.lastCompletion⟩⟩

section
variable {cap : Nat} {d : Byte} {u u' : DecUnit} {st : Status} {res : Res}

theorem decCoherent_reset : DecCoherent cap .reset := ⟨nofun, by decide⟩

/-- `DEC_OVF` is set only when the buffer is full, and then the count stays. -/
theorem appendByte_overflow (hc : u.cnt ≤ cap) (h : u.ovf = true → u.cnt = cap) (b : Byte)
    (ho : (appendByte cap b u).ovf = true) : (appendByte cap b u).cnt = cap := by
  obtain ⟨hlt, ha⟩ | ⟨hle, ha⟩ := appendByte_cases cap b u <;> rw [ha] at ho ⊢
  · exact absurd (h ho) (Nat.ne_of_lt hlt)
  · exact Nat.le_antisymm hc hle

theorem pushByte_overflow (hc : u.cnt ≤ cap) (h : u.ovf = true → u.cnt = cap)
    (hp : pushByte cap d u = .ok (u', st, res)) : u'.ovf = true → u'.cnt = cap := by
  obtain ⟨_, rfl, _⟩ | ⟨_, rfl, _⟩ | ⟨_, rfl, _⟩ | ⟨_, _, rfl, _⟩ | ⟨_, rfl, _⟩ := pushByte_cases hp
  · unfold pushHunt; split <;> exact h
  · unfold pushHuntFe
    split
    · nofun
    · exact h
  · unfold pushBody
    split
    · exact h
    · exact appendByte_overflow hc h d
  · exact appendByte_overflow hc h Config.flag
  · exact h

/-- The codes of the five completions (60_exceptions.md R271). -/
theorem Status.code_mem_of_isCompletion {st : Status} (h : st.isCompletion = true) :
    st.code ∈ [0x02#8, 0x10#8, 0x11#8, 0x12#8, 0x13#8] := by
  cases st
  case frameOk | malformedChecksum | malformedBadEscape | malformedTooShort | malformedOverflow => decide
  all_goals cases h

theorem DecCoherent.pushByte (h : DecCoherent cap u) (hc : u.cnt ≤ cap) (hp : pushByte cap d u = .ok (u', st, res)) :
    DecCoherent cap u' := by
  refine ⟨pushByte_overflow hc h.overflow hp, ?_⟩
  obtain ⟨_, herr⟩ | ⟨hst, herr⟩ := pushByte_err hp <;> rw [herr]
  · exact h.lastCompletion
  · exact List.mem_cons_of_mem _ (Status.code_mem_of_isCompletion hst)

end

theorem exec_keeps_decCoherent {i : Instr} {s t : State} (hc : s.dec.cnt ≤ s.cfg.decCap)
    (h : DecCoherent s.cfg.decCap s.dec) (he : exec i s = .next t) : DecCoherent s.cfg.decCap t.dec := by
  obtain ⟨_, _, _, _, hp, _⟩ | ⟨_, ht⟩ | ⟨_, ht⟩ | ⟨_, ht⟩ := exec_dec_cases he
  · exact h.pushByte hc hp
  · rw [ht]; exact ⟨nofun, by simp [forgetFrame]⟩
  · rw [ht]; exact decCoherent_reset
  · rw [ht]; exact h

section
variable {u : EvtUnit}

theorem evtCoherent_reset : EvtCoherent .reset := ⟨nofun, nofun, nofun, nofun⟩

/-- Without a year result only the fields have to be coherent. -/
theorem evtCoherent_of_no_year (hf : u.valid = true → u.fields = unpackLoaded u.record) (hy : u.yearValid = false) :
    EvtCoherent u :=
  ⟨hf, fun h => absurd h (by simp [hy]), fun h => absurd h (by simp [hy]), fun h => absurd h (by simp [hy])⟩

theorem EvtCoherent.unpackUnit (u : EvtUnit) : EvtCoherent (unpackUnit u) := by
  unfold Machine.unpackUnit
  split
  · exact evtCoherent_of_no_year (fun _ => rfl) rfl
  · exact evtCoherent_of_no_year nofun rfl

theorem EvtCoherent.yearUnit (h : EvtCoherent u) : EvtCoherent (yearUnit u) := by
  unfold Machine.yearUnit
  split
  next hv =>
    have hyear := latchYear_year_toNat u
    exact ⟨h.fields, fun _ => hv.2, fun _ => hyear, fun _ => by rw [hyear]; rfl⟩
  next => exact h

theorem EvtCoherent.evtAfter (h : EvtCoherent u) (i : Instr) : EvtCoherent (evtAfter i u) := by
  cases i
  case evtClear | evtPush d => exact evtCoherent_of_no_year nofun rfl
  case evtUnpack => exact EvtCoherent.unpackUnit u
  case evtYear => exact h.yearUnit
  case sysReset => exact evtCoherent_reset
  case evtRefyh d | evtRefyl d | evtRefmon d | evtRefday d | evtRefhour d | evtRefmin d =>
    exact evtCoherent_of_no_year h.fields rfl
  all_goals exact h

end

theorem exec_keeps_coherent {i : Instr} {s t : State} (hs : Inv s) (h : Coherent s) (he : exec i s = .next t) :
    Coherent t := by
  obtain ⟨hdec, hevt⟩ := coherent_iff.1 h
  rw [coherent_iff, exec_cfg he, exec_evt he]
  exact ⟨exec_keeps_decCoherent hs.decCount hdec he, hevt.evtAfter i⟩

theorem SameRegisters.coherent {s t : State} (h : SameRegisters s t) (hs : Coherent s) : Coherent t := by
  rw [coherent_iff] at hs ⊢
  rwa [h.cfg, h.dec, h.evt]

theorem coherent_resetInput (s : State) : Coherent (resetInput s) := coherent_iff.2 ⟨decCoherent_reset, evtCoherent_reset⟩

/-- Settles O47: coherence is kept together with the invariant, which bounds `DEC_CNT`. -/
theorem stepKeepsLatchedResultsCoherent : Obligations.StepKeepsLatchedResultsCoherent := fun _ _ hi hc h =>
  (step_keeps (P := fun s => Inv s ∧ Coherent s) (fun hsame hs => ⟨hsame.inv hs.1, hsame.coherent hs.2⟩)
    (fun hs => ⟨inv_of_reset hs.1.capacity, coherent_resetInput _⟩)
    (fun hs he => ⟨exec_keeps_inv hs.1 he, exec_keeps_coherent hs.1 hs.2 he⟩) ⟨hi, hc⟩ h).2

/-- Settles O45: every unit is as a reset leaves it, and the recommended capacity is legal. -/
theorem invariantAfterReset : Obligations.InvariantAfterReset :=
  ⟨inv_iff.2 ⟨by decide, csReset_acc_le, encReset_acc_le, decInv_reset, evtInv_reset⟩,
    coherent_iff.2 ⟨decCoherent_reset, evtCoherent_reset⟩⟩

/-! ### The lifetime of a decoded frame (70_reset_and_hazards.md, section 3) -/

/-- While a frame is held, a push keeps it unless it completes a start delimiter. -/
theorem pushByte_of_held {cap : Nat} {d : Byte} {u u' : DecUnit} {st : Status} {res : Res} (hu : HeldFrame cap u)
    (hd : ¬ (d = Config.flag ∧ u.st = .huntFe)) (h : pushByte cap d u = .ok (u', st, res)) :
    ∃ st', u' = { u with st := st' } := by
  obtain hst | hst := hu.hunting
  · rw [pushByte_of_hunt hst] at h
    cases h
    unfold pushHunt
    split
    · exact ⟨.huntFe, rfl⟩
    · exact ⟨u.st, rfl⟩
  · rw [pushByte_of_huntFe hst, pushHuntFe, if_neg fun hf => hd ⟨hf, hst⟩] at h
    cases h
    exact ⟨.hunt, rfl⟩

/-- Settles O32: the three ends open or reset the frame's registers; by the invariant a held frame is met hunting, where
any other push changes `DEC_ST` alone. -/
theorem decodedFrameLifetime : Obligations.DecodedFrameLifetime := by
  intro i s t hi hv h ends
  obtain ⟨d, st, res, rfl, hp, -⟩ | ⟨rfl, ht⟩ | ⟨rfl, ht⟩ | ⟨hk, ht⟩ := exec_dec_cases h
  · refine ⟨fun he => ?_, fun hne => ?_⟩
    · obtain ⟨rfl, hst⟩ : d = Config.flag ∧ s.dec.st = .huntFe := by simpa [ends] using he
      rw [pushByte_of_huntFe hst, pushHuntFe, if_pos rfl] at hp
      obtain ⟨hopen, -⟩ := Prod.mk.inj (Except.ok.inj hp)
      rw [← hopen]
      rfl
    · have hd : ¬ (d = Config.flag ∧ s.dec.st = .huntFe) := by simpa [ends] using hne
      obtain ⟨st', ht⟩ := pushByte_of_held (hi.heldFrame hv) hd hp
      rw [ht]
      exact ⟨hv, rfl, rfl⟩
  · exact ⟨fun _ => by rw [ht]; rfl, fun hne => absurd (.inl rfl) hne⟩
  · exact ⟨fun _ => by rw [ht]; rfl, fun hne => absurd (.inr (.inl rfl)) hne⟩
  · refine ⟨?_, fun _ => by rw [ht]; exact ⟨hv, rfl, rfl⟩⟩
    rintro (rfl | rfl | ⟨rfl, -⟩) <;> cases hk

end Sys2Proof.Machine
end

section
/-!
PROOF. Responses (60_exceptions.md R270 to R273): under the invariant every operation answers, with a status its row of
the table allows; and a host error changes nothing.
-/

namespace Sys2Proof.Machine

/-! ### Every operation answers -/

/-- The operation goes on, with a response whose status is one of those listed. -/
def Answers (i : Instr) (s : State) (listed : List (BitVec 8)) : Prop :=
  ∃ t r, exec i s = .next t ∧ t.rsp = some r ∧ r.status ∈ listed

section
variable {i : Instr} {s t : State} {listed : List (BitVec 8)} {st : Status} {res : Res} {tx : List Byte}

theorem answers_of_exec (h : exec i s = .next t) (hr : t.rsp = some ⟨st.code, res, tx⟩) (hst : st.code ∈ listed) :
    Answers i s listed := ⟨t, _, h, hr, hst⟩

theorem answers_of_responded {s' : State} (h : exec i s = .next (s'.responded st res tx)) (hst : st.code ∈ listed) :
    Answers i s listed := answers_of_exec h rfl hst

/-- A byte of the decoded frame that exists is answered with `OK`. -/
theorem answers_of_answerBufferByte {k : Nat} (h : exec i s = answerBufferByte k s) (hk : k < s.cfg.decCap)
    (hst : Status.ok.code ∈ listed) : Answers i s listed :=
  answers_of_responded (h.trans (answerBufferByte_eq hk)) hst

end

theorem pushByte_status_mem {cap : Nat} {d : Byte} {u u' : DecUnit} {st : Status} {res : Res}
    (h : pushByte cap d u = .ok (u', st, res)) :
    st.code ∈ [0x01#8, 0x02#8, 0x10#8, 0x11#8, 0x12#8, 0x13#8] := by
  obtain ⟨rfl, -⟩ | ⟨hst, -⟩ := pushByte_err h
  · decide
  · exact List.mem_cons_of_mem _ (Status.code_mem_of_isCompletion hst)

section
variable {s : State} (h : Inv s)
include h

theorem decPush_answers (d : Byte) : Answers (.decPush d) s [0x01#8, 0x02#8, 0x10#8, 0x11#8, 0x12#8, 0x13#8] := by
  obtain ⟨⟨u, st, res⟩, hp⟩ := pushByte_isOk (d := d) h.decCount
  exact answers_of_exec (exec_decPush hp) rfl (pushByte_status_mem hp)

theorem decRdcmd_answers : Answers .decRdcmd s [0x00#8, 0x31#8] := by
  cases hv : s.dec.valid
  · exact answers_of_responded (exec_decRdcmd_of_not_valid hv) (by decide)
  · obtain ⟨_, _, h3, hfits, _⟩ := h.heldFrame hv
    exact answers_of_answerBufferByte (exec_decRdcmd_of_valid hv) (by omega) (by decide)

theorem decRdpay_answers (d : Byte) : Answers (.decRdpay d) s [0x00#8, 0x31#8, 0x32#8] := by
  cases hv : s.dec.valid
  · exact answers_of_responded (exec_decRdpay_of_not_valid hv d) (by decide)
  · obtain ⟨_, _, h3, hfits, _⟩ := h.heldFrame hv
    obtain hd | hd := Nat.lt_or_ge d.toNat (payloadLength s.dec)
    · have hlt : 1 + d.toNat < s.cfg.decCap := by
        unfold payloadLength at hd
        omega
      exact answers_of_answerBufferByte (exec_decRdpay_within hv hd) hlt (by decide)
    · exact answers_of_responded (exec_decRdpay_beyond hv hd) (by decide)

end

section
variable (s : State)

theorem encStart_answers (d : Byte) : Answers (.encStart d) s [0x00#8, 0x30#8] := by
  cases hst : s.enc.st
  · exact answers_of_responded (exec_encStart_of_idle hst d) (by decide)
  · exact answers_of_responded (exec_encStart_of_body hst d) (by decide)

theorem encByte_answers (d : Byte) : Answers (.encByte d) s [0x00#8, 0x30#8] := by
  cases hst : s.enc.st
  · exact answers_of_responded (exec_encByte_of_idle hst d) (by decide)
  · exact answers_of_responded (exec_encByte_of_body hst d) (by decide)

theorem encEnd_answers : Answers .encEnd s [0x00#8, 0x30#8] := by
  cases hst : s.enc.st
  · exact answers_of_responded (exec_encEnd_of_idle hst) (by decide)
  · exact answers_of_responded (exec_encEnd_of_body hst) (by decide)

theorem decRdlen_answers : Answers .decRdlen s [0x00#8, 0x31#8] := by
  cases hv : s.dec.valid
  · exact answers_of_responded (exec_decRdlen_of_not_valid hv) (by decide)
  · exact answers_of_responded (exec_decRdlen_of_valid hv) (by decide)

theorem evtUnpack_answers : Answers .evtUnpack s [0x00#8, 0x20#8] := by
  by_cases hc : s.evt.recCnt = 8
  · exact answers_of_exec (st := .ok) (exec_evtUnpack_of_eq hc) rfl (by decide)
  · exact answers_of_exec (st := .decodeFailure) (exec_evtUnpack_of_ne hc) rfl (by decide)

theorem evtRd_answers (d : Byte) : Answers (.evtRd d) s [0x00#8, 0x31#8, 0x32#8] := by
  obtain ⟨st, res, he, rfl | ⟨rfl | rfl, -⟩⟩ := execEvtRd_eq d s <;> exact answers_of_responded he (by decide)

theorem evtYear_answers : Answers .evtYear s [0x00#8, 0x31#8, 0x33#8] := by
  cases hv : s.evt.valid
  · exact answers_of_responded (exec_evtYear_of_not_valid hv) (by decide)
  · by_cases hl : s.evt.ref.legal = true
    · exact answers_of_exec (st := .ok) (exec_evtYear_of_legal hv hl) rfl (by decide)
    · exact answers_of_responded (exec_evtYear_of_not_legal hv hl) (by decide)

end

/-- Settles O49: an operation that is not named has one way to end, which answers `OK`. -/
theorem everyOperationAnswersAListedStatus : Obligations.EveryOperationAnswersAListedStatus := by
  intro i s h
  cases i
  case encStart d => exact encStart_answers s d
  case encByte d => exact encByte_answers s d
  case encEnd => exact encEnd_answers s
  case decPush d => exact decPush_answers h d
  case decRdcmd => exact decRdcmd_answers h
  case decRdlen => exact decRdlen_answers s
  case decRdpay d => exact decRdpay_answers h d
  case evtUnpack => exact evtUnpack_answers s
  case evtRd d => exact evtRd_answers s d
  case evtYear => exact evtYear_answers s
  all_goals exact answers_of_responded (st := .ok) rfl (List.mem_singleton.2 rfl)

/-- Under the invariant an operation goes on, to a state that meets it, with a response. -/
theorem exec_total (i : Instr) {s : State} (h : Inv s) : ∃ t r, exec i s = .next t ∧ t.rsp = some r ∧ Inv t := by
  obtain ⟨t, r, ht, hr, -⟩ := everyOperationAnswersAListedStatus i s h
  exact ⟨t, r, ht, hr, exec_keeps_inv h ht⟩

/-- Settles O48: every operation answers (`exec_total`), and so does every other thing the host can present. -/
theorem stepNeverStops : Obligations.StepNeverStops := by
  intro s h
  have hnext : ∃ t, step s = .next t := by
    match hin : s.inputs with
    | [] => exact ⟨_, step_of_inputs_nil hin⟩
    | .rst :: rest => exact ⟨_, step_rst hin⟩
    | .command cw :: rest =>
      cases hd : decode cw with
      | ok i =>
        obtain ⟨t, _, ht, -⟩ := exec_total i ((sameRegisters_withInputs s rest).inv h)
        exact ⟨t, (step_of_decode_ok hin hd).trans ht⟩
      | error e => exact ⟨_, step_of_decode_error hd hin⟩
  obtain ⟨t, ht⟩ := hnext
  exact ⟨t, ht, stepKeepsTheInvariant s t h ht⟩

/-! ### Host errors change nothing -/

/-- How an operation that goes on ends: with a status that is no host error, or by declining, which changes no register.
-/
inductive EndsOrDeclines (s : State) : State → Prop
  | ended (s' : State) (st : Status) (res : Res) (tx : List Byte) (h : st.isHostError = false) :
      EndsOrDeclines s (s'.responded st res tx)
  | declined (st : Status) : EndsOrDeclines s (s.responded st 0 [])

/-- A read answers a value with `OK` alone (30_encoding.md R81). -/
theorem valueStatus_of_isRead {i : Instr} (h : isRead i = true) : valueStatus i = some .ok := by
  revert h
  cases i <;> simp [isRead, valueStatus]

theorem Status.isHostError_of_isCompletion {st : Status} (h : st.isCompletion = true) : st.isHostError = false := by
  revert h
  cases st <;> simp [Status.isCompletion, Status.isHostError]

section
variable {i : Instr} {s s' t : State} {st : Status} {res : Res} {tx : List Byte}

theorem endsOrDeclines_of_declined (h : exec i s = .next t) (hd : exec i s = .next (s.responded st 0 [])) :
    EndsOrDeclines s t :=
  Host.Outcome.next.inj (hd.symm.trans h) ▸ .declined st

theorem endsOrDeclines_of_ended (h : exec i s = .next t) (he : exec i s = .next (s'.responded st res tx))
    (hst : st.isHostError = false) : EndsOrDeclines s t :=
  Host.Outcome.next.inj (he.symm.trans h) ▸ .ended s' st res tx hst

theorem endsOrDeclines_of_read (hi : isRead i = true) (h : exec i s = .next t) : EndsOrDeclines s t := by
  obtain ⟨st, res, rfl⟩ := exec_read hi h
  by_cases hres : res = 0
  · rw [hres]
    exact .declined st
  · have hv : valueStatus i = some st := exec_valueOnlyWith s i s st res [] h hres
    obtain rfl := Option.some.inj ((valueStatus_of_isRead hi).symm.trans hv)
    exact .ended s .ok res [] rfl

theorem endsOrDeclines_decPush {d : Byte} (h : exec (.decPush d) s = .next t) : EndsOrDeclines s t := by
  obtain ⟨u, st, res, hp, rfl⟩ := execDecPush_next h
  refine .ended _ st res [] ?_
  obtain ⟨rfl, -⟩ | ⟨hst, -⟩ := pushByte_err hp
  · rfl
  · exact Status.isHostError_of_isCompletion hst

theorem exec_endsOrDeclines (h : exec i s = .next t) : EndsOrDeclines s t := by
  cases i
  case csRdhi | csRdlo | csRdacc | decRdcmd | decRdlen | decRdpay d | decRdstat | evtRd d =>
    exact endsOrDeclines_of_read rfl h
  case decPush d => exact endsOrDeclines_decPush h
  case encStart d =>
    cases hst : s.enc.st
    · exact endsOrDeclines_of_ended h (exec_encStart_of_idle hst d) rfl
    · exact endsOrDeclines_of_declined h (exec_encStart_of_body hst d)
  case encByte d =>
    cases hst : s.enc.st
    · exact endsOrDeclines_of_declined h (exec_encByte_of_idle hst d)
    · exact endsOrDeclines_of_ended h (exec_encByte_of_body hst d) rfl
  case encEnd =>
    cases hst : s.enc.st
    · exact endsOrDeclines_of_declined h (exec_encEnd_of_idle hst)
    · exact endsOrDeclines_of_ended h (exec_encEnd_of_body hst) rfl
  case evtUnpack =>
    by_cases hc : s.evt.recCnt = 8
    · exact endsOrDeclines_of_ended (st := .ok) h (if_pos hc) rfl
    · exact endsOrDeclines_of_ended (st := .decodeFailure) h (if_neg hc) rfl
  case evtYear =>
    cases hv : s.evt.valid
    · exact endsOrDeclines_of_declined h (exec_evtYear_of_not_valid hv)
    · by_cases hl : s.evt.ref.legal = true
      · exact endsOrDeclines_of_ended (st := .ok) h ((if_pos hv).trans (if_pos hl)) rfl
      · exact endsOrDeclines_of_declined h (exec_evtYear_of_not_legal hv hl)
  all_goals exact endsOrDeclines_of_ended (st := .ok) h rfl rfl

end

theorem Status.isHostError_of_code_mem {st : Status} (h : st.code ∈ [0x30#8, 0x31#8, 0x32#8, 0x33#8, 0x3F#8]) :
    st.isHostError = true := by
  cases st
  case seqError | notValid | indexError | refInvalid | illegalOp => rfl
  all_goals exact absurd h (by decide)

/-- Settles O50: an operation whose status is a host error has declined (`exec_endsOrDeclines`). -/
theorem hostErrorsChangeNothing : Obligations.HostErrorsChangeNothing := by
  intro i s t r h hr hmem
  cases exec_endsOrDeclines h with
  | ended s' st res tx hst =>
    obtain rfl := Option.some.inj hr
    rw [Status.isHostError_of_code_mem hmem] at hst
    cases hst
  | declined st =>
    obtain rfl := Option.some.inj hr
    exact State.responded_nil ..

end Sys2Proof.Machine
end

section
/-!
PROOF. The event unpacker (43_event_unpacker.md, sections 2 and 3): the ranges of the fields, the bits that take no
part, the calendar, the window of the resolved year, and that the loader's operations compute `unpack` and
`resolve_year`.
-/

namespace Sys2Proof.Machine

/-! ### The fields of a record -/

theorem unpackLoaded_hour (m : Memory) : (unpackLoaded m).hour.toNat = (unpackLoaded m).hourMin.toNat / 60 := by
  rw [unpackLoaded, unpackRecord_hour_toNat, unpackRecord_hourMin_toNat]

theorem unpackLoaded_minute (m : Memory) : (unpackLoaded m).minute.toNat = (unpackLoaded m).hourMin.toNat % 60 := by
  rw [unpackLoaded, unpackRecord_minute_toNat, unpackRecord_hourMin_toNat]

/-- Settles O40: a field lies below its register's width, and hour and minute are quotient and remainder of a 12-bit
number. -/
theorem unpackedFieldRanges : Obligations.UnpackedFieldRanges := by
  intro s t hc h
  cases (exec_evtUnpack_of_eq hc).symm.trans h
  intro f
  have hcode := f.code.isLt
  have hpartition := f.partition.isLt
  have hsource := f.source.isLt
  have hday := f.day.isLt
  have hmonth := f.month.isLt
  have hym := f.ym.isLt
  have hhourMin := f.hourMin.isLt
  have hhour : f.hour.toNat = f.hourMin.toNat / 60 := unpackLoaded_hour s.evt.record
  have hminute : f.minute.toNat = f.hourMin.toNat % 60 := unpackLoaded_minute s.evt.record
  omega

/-- The low 5 bits of `b1` lie below every field of it. -/
theorem ushiftRight_unused (b x : Byte) : (b &&& 0xE0 ||| x &&& 0x1F) >>> 5 = b >>> 5 := by
  have hkept : (0xE0 : Byte) >>> 5 = (0xFF : Byte) >>> 5 := by decide
  have hdropped : (0x1F : Byte) >>> 5 = 0#8 := by decide
  have hall : b &&& 0xFF = b := BitVec.and_allOnes
  rw [BitVec.ushiftRight_or_distrib, BitVec.ushiftRight_and_distrib, BitVec.ushiftRight_and_distrib, hkept, hdropped,
    ← BitVec.ushiftRight_and_distrib, hall, BitVec.and_zero, BitVec.or_zero]

/-- The high 3 bits of `b2` are masked out of the day. -/
theorem and_unused (b y : Byte) : (b &&& 0x1F ||| y &&& 0xE0) &&& 0x1F = b &&& 0x1F := by
  have hdropped : (0xE0 : Byte) &&& 0x1F = 0#8 := by decide
  rw [BitVec.and_or_distrib_right, BitVec.and_assoc, BitVec.and_assoc, hdropped, BitVec.and_self, BitVec.and_zero,
    BitVec.or_zero]

/-- Settles O41: the fields of `b1` and `b2` read the other bits, and no field reads `b8`. -/
theorem unusedRecordBitsAreIgnored : Obligations.UnusedRecordBitsAreIgnored := by
  intro b1 b2 b3 b4 b5 b6 b7 b8 x y z
  have h5 := congrArg BitVec.toNat (ushiftRight_unused b1 x)
  have hday := congrArg BitVec.toNat (and_unused b2 y)
  rw [BitVec.toNat_ushiftRight, BitVec.toNat_ushiftRight] at h5
  rw [BitVec.toNat_and, BitVec.toNat_and b2] at hday
  have h6 := congrArg (· >>> 1) h5
  simp only [← Nat.shiftRight_add] at h6
  simp only [unpackRecord]
  rw [h6, h5]
  exact congrArg (fun n => EventFields.mk _ _ (BitVec.ofNat 5 n) _ _ _ _ _ _ _ _) hday

/-! ### The calendar and the order of dates (43_event_unpacker.md R212, R213) -/

theorem leap_iff (y : Nat) : leap y = true ↔ (y % 4 = 0 ∧ y % 100 ≠ 0) ∨ y % 400 = 0 := by
  simp [leap]

/-- The days of a month by the lists of long and short months. -/
theorem le_daysInMonth_iff {y mo : Nat} (h : 1 ≤ mo ∧ mo ≤ 12) (d : Nat) : d ≤ daysInMonth y mo ↔
    (mo ∈ [1, 3, 5, 7, 8, 10, 12] → d ≤ 31) ∧ (mo ∈ [4, 6, 9, 11] → d ≤ 30) ∧
    (mo = 2 → d ≤ if (y % 4 = 0 ∧ y % 100 ≠ 0) ∨ y % 400 = 0 then 29 else 28) := by
  obtain ⟨h1, h12⟩ := h
  simp only [← leap_iff]
  interval_cases mo <;> simp [daysInMonth]

theorem validDt_iff (t : DateTime) : validDt t = true ↔
    (1 ≤ t.month ∧ t.month ≤ 12) ∧ t.hour ≤ 23 ∧ t.minute ≤ 59 ∧ 1 ≤ t.day ∧ t.day ≤ daysInMonth t.year t.month := by
  simp only [validDt, Bool.and_eq_true, decide_eq_true_eq]
  tauto

/-- The first position where two tuples differ decides. -/
theorem after_iff (t r : DateTime) : after t r = true ↔
    r.year < t.year ∨ r.year = t.year ∧ (r.month < t.month ∨ r.month = t.month ∧ (r.day < t.day ∨ r.day = t.day ∧
      (r.hour < t.hour ∨ r.hour = t.hour ∧ r.minute < t.minute))) := by
  unfold after
  split_ifs <;> rw [decide_eq_true_eq] <;> omega

/-- Settles O43: the calendar month by month, the order position by position. -/
theorem calendarAndOrderOfDates : Obligations.CalendarAndOrderOfDates := by
  refine ⟨fun t => ?_, fun t r => ?_⟩
  · rw [validDt_iff]
    exact and_congr_right fun h => by rw [le_daysInMonth_iff h]
  · rw [after_iff]
    simp only [List.cons_lex_cons_iff, List.not_lex_nil, and_false, or_false]

/-! ### The window of the resolved year (43_event_unpacker.md, section 3) -/

theorem year_le_of_after {t r : DateTime} (h : after t r = true) : r.year ≤ t.year := by
  rw [after_iff] at h
  omega

theorem year_le_of_not_after {t r : DateTime} (h : ¬ after t r = true) : t.year ≤ r.year := by
  rw [after_iff] at h
  omega

theorem le_candidateYear (f : EventFields) (ref : DateTime) : ref.year - ref.year % 4 ≤ candidateYear f ref := by
  unfold candidateYear
  simp only
  split <;> omega

/-- Against a year of at least 4, the year is the candidate when that does not lie after the reference, else 4 less. -/
theorem resolvedYear_window (f : EventFields) {ref : DateTime} (h : 4 ≤ ref.year) :
    ref.year ≤ resolvedYear f ref + 4 ∧ resolvedYear f ref ≤ ref.year := by
  have hle := candidateYear_le f ref
  have hge := le_candidateYear f ref
  unfold resolvedYear
  simp only
  split
  next ha =>
    have hyear : ref.year ≤ candidateYear f ref := year_le_of_after ha
    omega
  next ha =>
    have hyear : candidateYear f ref ≤ ref.year := year_le_of_not_after ha
    omega

/-- Settles O42: the candidate lies in the reference's 4-year block, and a legal reference year is at least 4. -/
theorem resolvedYearWindow : Obligations.ResolvedYearWindow := by
  intro f r hl
  obtain ⟨h4, -⟩ := Reference.legal_iff.1 hl
  have h4' : 4 ≤ r.dateTime.year := h4
  obtain ⟨hlow, hhigh⟩ := resolvedYear_window f h4'
  refine ⟨hlow, hhigh, toNat_ofNat_of_lt (resolvedYear_lt f r), fun ha => ?_⟩
  have hyear : r.dateTime.year ≤ candidateYear f r.dateTime := year_le_of_after ha
  omega

/-! ### Loading a record (43_event_unpacker.md R201, R202) -/

/-- What loading the bytes in order leaves of the event unit's registers. -/
def loadBytes (bs : List Byte) (u : EvtUnit) : EvtUnit := bs.foldl (fun u d => pushRecord d u) u

@[simp] theorem loadBytes_nil (u : EvtUnit) : loadBytes [] u = u := rfl

@[simp] theorem loadBytes_cons (d : Byte) (bs : List Byte) (u : EvtUnit) :
    loadBytes (d :: bs) u = loadBytes bs (pushRecord d u) := rfl

@[simp] theorem loadBytes_ref (bs : List Byte) (u : EvtUnit) : (loadBytes bs u).ref = u.ref := by
  induction bs generalizing u with
  | nil => rfl
  | cons d bs ih => rw [loadBytes_cons, ih, pushRecord_ref]

/-- The bytes loaded since `EVT.CLEAR`: they are counted up to 9, and up to 8 of them are held in order. -/
structure Loaded (bs : List Byte) (u : EvtUnit) : Prop where
  count : u.recCnt = min bs.length 9
  form : u.record.wf = true
  bytes : bs.length ≤ 8 → u.record.bytes bs.length = bs

section
variable {bs : List Byte} {u : EvtUnit}

theorem loaded_pushRecord (h : Loaded bs u) (d : Byte) : Loaded (bs ++ [d]) (pushRecord d u) := by
  obtain ⟨hcount, hform, hbytes⟩ := h
  have hlen : (bs ++ [d]).length = bs.length + 1 := by simp
  have hcount' : (pushRecord d u).recCnt = min (bs ++ [d]).length 9 := by
    rw [pushRecord_recCnt, hcount, hlen]
    omega
  have hform' : (pushRecord d u).record.wf = true := by
    obtain hr | ⟨_, hr⟩ := pushRecord_record d u <;> rw [hr]
    · exact hform
    · exact Memory.wf_write hform
  refine ⟨hcount', hform', fun hle => ?_⟩
  have hrecord : (pushRecord d u).record = u.record.write u.recCnt d := if_pos (show u.recCnt < 8 by omega)
  rw [hrecord, hcount, hlen, Nat.min_eq_left (by omega), Memory.bytes_write hform, hbytes (by omega)]

theorem loaded_loadBytes (h : Loaded bs u) (cs : List Byte) : Loaded (bs ++ cs) (loadBytes cs u) := by
  induction cs generalizing bs u with
  | nil => simpa using h
  | cons d cs ih =>
    rw [loadBytes_cons, List.append_cons]
    exact ih (loaded_pushRecord h d)

/-- A record of 8 loaded bytes unpacks to the fields of those bytes (43_event_unpacker.md R204). -/
theorem unpackLoaded_of_loaded {b1 b2 b3 b4 b5 b6 b7 b8 : Byte} (h : Loaded [b1, b2, b3, b4, b5, b6, b7, b8] u) :
    unpackLoaded u.record = unpackRecord b1 b2 b3 b4 b5 b6 b7 b8 := by
  have hbytes := h.bytes (Nat.le_refl 8)
  simp only [Memory.bytes, List.range, List.range.loop, List.length_cons, List.length_nil, List.map_cons, List.map_nil,
    List.cons.injEq] at hbytes
  obtain ⟨h1, h2, h3, h4, h5, h6, h7, h8, -⟩ := hbytes
  rw [unpackLoaded, h1, h2, h3, h4, h5, h6, h7, h8]

end

theorem runOps_evtPushes (bs : List Byte) (s : State) : ∃ t,
    runOps (bs.map .evtPush) s = (List.replicate bs.length ⟨0x00, 0, []⟩, .next t) ∧ t.evt = loadBytes bs s.evt := by
  induction bs generalizing s with
  | nil => exact ⟨s, rfl, rfl⟩
  | cons d bs ih =>
    obtain ⟨t, hrun, ht⟩ := ih { s with evt := pushRecord d s.evt, rsp := some ⟨0x00, 0, []⟩ }
    refine ⟨t, ?_, ht⟩
    rw [List.map_cons, runOps_cons_of_next (exec_evtPush d s), hrun]
    rfl

/-- `EVT.LOAD` (30_encoding.md R98) leaves its bytes loaded, and the reference as it is. -/
theorem runOps_evtLoad (bs : List Byte) {s : State} (hw : s.evt.record.wf = true) : ∃ t,
    runOps (evtLoad bs) s = (List.replicate (bs.length + 1) ⟨0x00, 0, []⟩, .next t) ∧ Loaded bs t.evt ∧
    t.evt.ref = s.evt.ref := by
  obtain ⟨t, hrun, ht⟩ := runOps_evtPushes bs
    { s with evt := { s.evt with recCnt := 0, valid := false, yearValid := false }, rsp := some ⟨0x00, 0, []⟩ }
  refine ⟨t, ?_, ?_, ?_⟩
  · rw [evtLoad, runOps_cons_of_next (exec_evtClear s), hrun]
    rfl
  · have hempty : Loaded [] { s.evt with recCnt := 0, valid := false, yearValid := false } := ⟨rfl, hw, fun _ => rfl⟩
    rw [ht]
    exact loaded_loadBytes hempty bs
  · rw [ht, loadBytes_ref]

theorem runOps_loadUnpack_of_ne {bs : List Byte} (hlen : bs.length ≠ 8) {s : State} (hw : s.evt.record.wf = true) : ∃ t,
    runOps (evtLoad bs ++ [.evtUnpack]) s =
      (List.replicate (bs.length + 1) ⟨0x00, 0, []⟩ ++ [⟨0x20, 0, []⟩], .next t) ∧ t.evt.valid = false := by
  obtain ⟨t, hrun, hloaded, -⟩ := runOps_evtLoad bs hw
  have hcount := hloaded.count
  refine ⟨{ t with evt := { t.evt with valid := false, yearValid := false }, rsp := some ⟨0x20, 0, []⟩ }, ?_, rfl⟩
  rw [runOps_append hrun, runOps_cons_of_next (exec_evtUnpack_of_ne (by omega))]
  rfl

/-- Loading and unpacking 8 bytes. -/
theorem runOps_loadUnpack (b1 b2 b3 b4 b5 b6 b7 b8 : Byte) {s : State} (hw : s.evt.record.wf = true) : ∃ t,
    runOps (evtLoad [b1, b2, b3, b4, b5, b6, b7, b8] ++ [.evtUnpack]) s =
      (List.replicate 10 ⟨0x00, 0, []⟩, .next t) ∧
    t.evt.valid = true ∧ t.evt.fields = unpackRecord b1 b2 b3 b4 b5 b6 b7 b8 ∧ t.evt.ref = s.evt.ref := by
  obtain ⟨t, hrun, hloaded, href⟩ := runOps_evtLoad [b1, b2, b3, b4, b5, b6, b7, b8] hw
  have hexec := exec_evtUnpack_of_eq hloaded.count
  rw [unpackLoaded_of_loaded hloaded] at hexec
  have hall := runOps_append hrun [.evtUnpack]
  rw [runOps_cons_of_next hexec] at hall
  exact ⟨_, hall, rfl, rfl, href⟩

/-! ### Resolving the year of a loaded record (43_event_unpacker.md R215) -/

/-- The operations go on to the end and every response is `OK`. -/
def AllOk (ops : List Instr) (s t : State) : Prop :=
  ∃ rs, runOps ops s = (rs, .next t) ∧ ∀ x ∈ rs, x.status = 0x00

theorem AllOk.append {xs ys : List Instr} {s t v : State} (hx : AllOk xs s t) (hy : AllOk ys t v) :
    AllOk (xs ++ ys) s v := by
  obtain ⟨rs, hrun, hok⟩ := hx
  obtain ⟨rs', hrun', hok'⟩ := hy
  exact ⟨rs ++ rs', by rw [runOps_append hrun, hrun'], fun x hx => (List.mem_append.1 hx).elim (hok x) (hok' x)⟩

theorem allOk_of_replicate {ops : List Instr} {s t : State} {n : Nat}
    (h : runOps ops s = (List.replicate n ⟨0x00, 0, []⟩, .next t)) : AllOk ops s t :=
  ⟨_, h, fun x hx => by rw [List.eq_of_mem_replicate hx]⟩

/-- Written in two halves, a year is what was written. -/
theorem yearWithLow_yearWithHigh (y y' : BitVec 16) :
    yearWithLow (yearWithHigh y (y'.extractLsb' 8 8)) (y'.extractLsb' 0 8) = y' := by
  apply BitVec.eq_of_toNat_eq
  rw [yearWithLow_toNat, yearWithHigh_toNat, BitVec.extractLsb'_toNat, BitVec.extractLsb'_toNat, Nat.shiftRight_zero,
    Nat.shiftRight_eq_div_pow]
  have hy := y'.isLt
  omega

theorem exec_refWrite {i : Instr} {s : State} {r : Reference} (h : refAfter i s.evt.ref = some r) : exec i s =
    .next { s with evt := { s.evt with ref := r, yearValid := false }, rsp := some ⟨0x00, 0, []⟩ } := by
  cases i
  case evtRefyh d | evtRefyl d | evtRefmon d | evtRefday d | evtRefhour d | evtRefmin d =>
    obtain rfl := Option.some.inj h
    exact writeRef_eq_rsp s _
  all_goals cases h

/-- Writes of the reference, one after the other, change of the event unit the reference and the year flag alone. -/
theorem allOk_refWrites {is : List Instr} {s : State} {r : Reference}
    (h : is.foldlM (fun r i => refAfter i r) s.evt.ref = some r) :
    ∃ t, AllOk is s t ∧ t.evt = { s.evt with ref := r, yearValid := t.evt.yearValid } := by
  induction is generalizing s with
  | nil =>
    obtain rfl := Option.some.inj h
    exact ⟨s, ⟨[], rfl, nofun⟩, rfl⟩
  | cons i is ih =>
    rw [List.foldlM_cons] at h
    obtain ⟨r', hr', hrest⟩ := Option.bind_eq_some_iff.1 h
    obtain ⟨t, hall, ht⟩ :=
      ih (s := { s with evt := { s.evt with ref := r', yearValid := false }, rsp := some ⟨0x00, 0, []⟩ }) hrest
    have hi : AllOk [i] s { s with evt := { s.evt with ref := r', yearValid := false }, rsp := some ⟨0x00, 0, []⟩ } :=
      allOk_of_replicate (n := 1) (runOps_cons_of_next (exec_refWrite hr'))
    exact ⟨t, hi.append hall, ht⟩

/-- `EVT.SETREF` (30_encoding.md R98) leaves the reference it names. -/
theorem allOk_evtSetRef (r : Reference) (s : State) :
    ∃ t, AllOk (evtSetRef r) s t ∧ t.evt = { s.evt with ref := r, yearValid := t.evt.yearValid } := by
  refine allOk_refWrites ?_
  simp [evtSetRef, refAfter, yearWithLow_yearWithHigh]

theorem allOk_evtYear {s : State} (hv : s.evt.valid = true) (hl : s.evt.ref.legal = true) :
    ∃ t, AllOk [.evtYear] s t ∧ t.evt = latchYear s.evt :=
  ⟨_, ⟨_, runOps_cons_of_next (exec_evtYear_of_legal hv hl), fun _ hx => by rw [List.mem_singleton.1 hx]⟩, rfl⟩

/-- The year result latched is `resolve_year` of the fields and the reference. -/
theorem latchYear_result (u : EvtUnit) :
    ((latchYear u).year.toNat, (latchYear u).dateOk) = resolveYear u.fields u.ref.dateTime := by
  rw [latchYear_year_toNat]
  rfl

/-- After operations that leave a record unpacked and a legal reference, `EVT.YEAR` latches `resolve_year` of the two.
-/
theorem runOps_concat_evtYear {ops : List Instr} {s v : State} {f : EventFields} {ref : Reference} (hl : ref.legal = true)
    (hops : AllOk ops s v) (hv : v.evt.valid = true) (hf : v.evt.fields = f) (hr : v.evt.ref = ref) :
    ∃ rs t, runOps (ops ++ [.evtYear]) s = (rs, .next t) ∧ (∀ x ∈ rs, x.status = 0x00) ∧
      t.evt.yearValid = true ∧ t.evt.fields = f ∧ t.evt.ref = ref ∧
      (t.evt.year.toNat, t.evt.dateOk) = resolveYear f ref.dateTime := by
  subst hf hr
  obtain ⟨t, hyear, ht⟩ := allOk_evtYear hv hl
  obtain ⟨rs, hrun, hok⟩ := hops.append hyear
  refine ⟨rs, t, hrun, hok, ?_⟩
  rw [ht]
  exact ⟨rfl, rfl, rfl, latchYear_result v.evt⟩

/-- Settles O44: the loader holds the bytes in order (`runOps_evtLoad`), and the reference may be written before or
after. -/
theorem recordLoadingRefinesUnpack : Obligations.RecordLoadingRefinesUnpack := by
  intro r ref s hw
  refine ⟨fun hlen => runOps_loadUnpack_of_ne hlen hw, ?_⟩
  rintro b1 b2 b3 b4 b5 b6 b7 b8 rfl f
  refine ⟨?_, fun hl ops hops => ?_⟩
  · obtain ⟨t, hrun, hvalid, hfields, -⟩ := runOps_loadUnpack b1 b2 b3 b4 b5 b6 b7 b8 hw
    exact ⟨t, hrun, hvalid, hfields⟩
  · obtain rfl | rfl := hops
    · obtain ⟨t, hload, hvalid, hfields, -⟩ := runOps_loadUnpack b1 b2 b3 b4 b5 b6 b7 b8 hw
      obtain ⟨v, hset, hv⟩ := allOk_evtSetRef ref t
      exact runOps_concat_evtYear hl ((allOk_of_replicate hload).append hset) (by rw [hv]; exact hvalid)
        (by rw [hv]; exact hfields) (by rw [hv])
    · obtain ⟨t, hset, ht⟩ := allOk_evtSetRef ref s
      have hw' : t.evt.record.wf = true := by rw [ht]; exact hw
      obtain ⟨v, hload, hvalid, hfields, href⟩ := runOps_loadUnpack b1 b2 b3 b4 b5 b6 b7 b8 hw'
      rw [List.append_assoc (evtSetRef ref)]
      exact runOps_concat_evtYear hl (hset.append (allOk_of_replicate hload)) hvalid hfields (by rw [href, ht])

end Sys2Proof.Machine
end

section
/-!
PROOF. What a buffer or field register holds before it is written cannot be observed (10_state.md R31 item e). Being
alike in what can be shown is a relation on each unit; every operation keeps it unit by unit and answers alike.
-/

namespace Sys2Proof.Machine

/-! ### Alike, unit by unit -/

/-- Decoders alike in what operations can show: all but the bytes beyond the count. -/
structure DecVisible (u u' : DecUnit) : Prop where
  st : u'.st = u.st
  cnt : u'.cnt = u.cnt
  ovf : u'.ovf = u.ovf
  valid : u'.valid = u.valid
  err : u'.err = u.err
  buf : agreeBelow u.cnt u.buf u'.buf

/-- Event units alike in what operations can show: all but unloaded bytes, fields without an event, a year without a
result. -/
structure EvtVisible (u u' : EvtUnit) : Prop where
  recCnt : u'.recCnt = u.recCnt
  record : agreeBelow (min u.recCnt 8) u.record u'.record
  valid : u'.valid = u.valid
  fields : u.valid = true → u'.fields = u.fields
  ref : u'.ref = u.ref
  yearValid : u'.yearValid = u.yearValid
  year : u.yearValid = true → u'.year = u.year
  dateOk : u.yearValid = true → u'.dateOk = u.dateOk

/-- The registers of two states are alike: the same but for what no operation can show. -/
structure VisibleRegisters (s s' : State) : Prop where
  cfg : s'.cfg = s.cfg
  cs : s'.cs = s.cs
  enc : s'.enc = s.enc
  dec : DecVisible s.dec s'.dec
  evt : EvtVisible s.evt s'.evt

theorem sameVisible_iff {s s' : State} : SameVisible s s' ↔
    VisibleRegisters s s' ∧ s'.inputs = s.inputs ∧ s'.rsp = s.rsp ∧ s'.txLog = s.txLog :=
  ⟨fun h => ⟨⟨h.cfg, h.cs, h.enc, ⟨h.decSt, h.decCnt, h.decOvf, h.decValid, h.decErr, h.decBuf⟩,
      h.recCnt, h.record, h.evtValid, h.fields, h.ref, h.yearValid, h.year, h.dateOk⟩, h.inputs, h.rsp, h.txLog⟩,
    fun ⟨⟨hcfg, hcs, henc, hd, he⟩, hin, hrsp, htx⟩ => ⟨hcfg, hcs, henc, hd.st, hd.cnt, hd.ovf, hd.valid, hd.err, hd.buf,
      he.recCnt, he.record, he.valid, he.fields, he.ref, he.yearValid, he.year, he.dateOk, hin, hrsp, htx⟩⟩

theorem agreeBelow.mono {m n : Nat} {a b : Memory} (h : agreeBelow n a b) (hmn : m ≤ n) : agreeBelow m a b :=
  fun i hi => h i (by omega)

/-- One more byte, written at the end of the agreement in both buffers, extends it. -/
theorem agreeBelow.write {n : Nat} {a b : Memory} (h : agreeBelow n a b) (ha : a.wf = true) (hb : b.wf = true)
    (v : Byte) : agreeBelow (n + 1) (a.write n v) (b.write n v) := by
  intro i hi
  rw [Memory.read_write ha, Memory.read_write hb]
  split
  · rfl
  · exact h i (by omega)

theorem DecVisible.refl (u : DecUnit) : DecVisible u u := ⟨rfl, rfl, rfl, rfl, rfl, fun _ _ => rfl⟩

theorem EvtVisible.refl (u : EvtUnit) : EvtVisible u u :=
  ⟨rfl, fun _ _ => rfl, rfl, fun _ => rfl, rfl, rfl, fun _ => rfl, fun _ => rfl⟩

/-! ### The decoder -/

section
variable {cap : Nat} {u u' : DecUnit}

theorem DecVisible.with_st (h : DecVisible u u') (st : DecSt) :
    DecVisible { u with st := st } { u' with st := st } := ⟨rfl, h.cnt, h.ovf, h.valid, h.err, h.buf⟩

theorem DecVisible.openFrame (h : DecVisible u u') : DecVisible (openFrame u) (openFrame u') :=
  ⟨rfl, rfl, rfl, rfl, h.err, nofun⟩

/-- `DEC.RESET` leaves no byte to show. -/
theorem decVisible_forgetFrame (u u' : DecUnit) : DecVisible (forgetFrame u) (forgetFrame u') :=
  ⟨rfl, rfl, rfl, rfl, rfl, nofun⟩

theorem DecVisible.appendByte (h : DecVisible u u') (hw : u.buf.wf = true) (hw' : u'.buf.wf = true) (b : Byte) :
    DecVisible (appendByte cap b u) (appendByte cap b u') := by
  unfold Machine.appendByte
  rw [h.cnt]
  split
  · exact ⟨h.st, rfl, h.ovf, h.valid, h.err, h.buf.write hw hw' b⟩
  · exact ⟨h.st, rfl, rfl, h.valid, h.err, h.buf⟩

theorem DecVisible.completeFrame (h : DecVisible u u') (st : Status) :
    DecVisible (completeFrame st u) (completeFrame st u') :=
  ⟨rfl, h.cnt, h.ovf, congrArg (· || st == .frameOk) h.valid, rfl, h.buf⟩

/-- The checksum test reads only collected bytes. -/
theorem DecVisible.checksumMatches (h : DecVisible u u') (h3 : 3 ≤ u.cnt) :
    checksumMatches u' = checksumMatches u := by
  unfold Machine.checksumMatches
  rw [h.cnt, Memory.bytes_congr (m := u'.buf) (m' := u.buf) fun i hi => (h.buf i (by omega)).symm,
    h.buf (u.cnt - 2) (by omega), h.buf (u.cnt - 1) (by omega)]

theorem DecVisible.frameVerdict (h : DecVisible u u') : frameVerdict cap u' = frameVerdict cap u := by
  unfold Machine.frameVerdict
  rw [h.ovf, h.cnt]
  by_cases h3 : u.cnt < 3
  · simp only [if_pos h3]
  · rw [h.checksumMatches (by omega)]

/-- Outcomes of a push are alike: the first one's status and value are the second one's too, and the registers are
alike. -/
def PushVisible (o o' : Except Fault (DecUnit × Status × Res)) : Prop :=
  ∀ v st res, o = .ok (v, st, res) → ∃ v', o' = .ok (v', st, res) ∧ DecVisible v v'

theorem pushVisible_needMore (h : DecVisible u u') : PushVisible (needMore u) (needMore u') := by
  rintro v st res ⟨⟩
  exact ⟨u', rfl, h⟩

theorem pushVisible_complete (h : DecVisible u u') (st : Status) : PushVisible (complete st u) (complete st u') := by
  rintro v st res ⟨⟩
  refine ⟨_, ?_, h.completeFrame st⟩
  have hlen : payloadLength u' = payloadLength u := by rw [payloadLength, payloadLength, h.cnt]
  rw [complete, completionRes, completionRes, hlen]

theorem pushVisible_endFrame (h : DecVisible u u') : PushVisible (endFrame cap u) (endFrame cap u') := by
  unfold endFrame
  rw [h.frameVerdict]
  cases frameVerdict cap u with
  | error f => nofun
  | ok st => exact pushVisible_complete h st

theorem DecVisible.pushByte (h : DecVisible u u') (hw : u.buf.wf = true) (hw' : u'.buf.wf = true) (d : Byte) :
    PushVisible (pushByte cap d u) (pushByte cap d u') := by
  unfold Machine.pushByte
  rw [h.st]
  cases u.st with
  | hunt =>
    refine pushVisible_needMore ?_
    unfold pushHunt
    split
    · exact h.with_st .huntFe
    · exact h
  | huntFe =>
    refine pushVisible_needMore ?_
    unfold pushHuntFe
    split
    · exact h.openFrame
    · exact h.with_st .hunt
  | body =>
    refine pushVisible_needMore ?_
    unfold pushBody
    split
    · exact h.with_st .bodyFe
    · exact h.appendByte hw hw' d
  | bodyFe =>
    simp only
    split_ifs
    · exact pushVisible_needMore ((h.appendByte hw hw' Config.flag).with_st .body)
    · exact pushVisible_endFrame h
    · exact pushVisible_complete h _

end

/-! ### The event unit -/

section
variable {u u' : EvtUnit}

theorem EvtVisible.pushRecord (h : EvtVisible u u') (hw : u.record.wf = true) (hw' : u'.record.wf = true) (d : Byte) :
    EvtVisible (pushRecord d u) (pushRecord d u') := by
  refine ⟨by rw [pushRecord_recCnt, pushRecord_recCnt, h.recCnt], ?_, rfl, nofun, h.ref, rfl, nofun, nofun⟩
  unfold Machine.pushRecord
  rw [h.recCnt]
  have hrecord := h.record
  split
  next hlt =>
    rw [Nat.min_eq_left (Nat.le_of_lt hlt)] at hrecord
    exact (hrecord.write hw hw' d).mono (by simp only; omega)
  next hge =>
    have hge : 8 ≤ u.recCnt := Nat.not_lt.1 hge
    exact hrecord.mono (by simp only; omega)

/-- A full record unpacks alike. -/
theorem EvtVisible.unpackLoaded (h : EvtVisible u u') (h8 : u.recCnt = 8) :
    unpackLoaded u'.record = unpackLoaded u.record := by
  have hread (i : Nat) (hi : i < 8) : u'.record.read i = u.record.read i := (h.record i (by omega)).symm
  unfold Machine.unpackLoaded
  rw [hread 0 (by decide), hread 1 (by decide), hread 2 (by decide), hread 3 (by decide), hread 4 (by decide),
    hread 5 (by decide), hread 6 (by decide), hread 7 (by decide)]

theorem EvtVisible.unpackUnit (h : EvtVisible u u') : EvtVisible (unpackUnit u) (unpackUnit u') := by
  unfold Machine.unpackUnit
  rw [h.recCnt]
  split
  next h8 => exact ⟨rfl, h.record, rfl, fun _ => h.unpackLoaded h8, h.ref, rfl, nofun, nofun⟩
  next => exact ⟨rfl, h.record, rfl, nofun, h.ref, rfl, nofun, nofun⟩

/-- The year result is alike for an unpacked record. -/
theorem EvtVisible.latchYear (h : EvtVisible u u') (hv : u.valid = true) :
    EvtVisible (latchYear u) (latchYear u') := by
  have hyear : resolveYear u'.fields u'.ref.dateTime = resolveYear u.fields u.ref.dateTime := by rw [h.fields hv, h.ref]
  refine ⟨h.recCnt, h.record, h.valid, h.fields, h.ref, rfl, fun _ => ?_, fun _ => ?_⟩
  · exact congrArg (fun y => BitVec.ofNat 16 y.1) hyear
  · exact congrArg Prod.snd hyear

theorem EvtVisible.yearUnit (h : EvtVisible u u') : EvtVisible (yearUnit u) (yearUnit u') := by
  unfold Machine.yearUnit
  rw [h.valid, h.ref]
  split
  next hv => exact h.latchYear hv.1
  next => exact h

theorem EvtVisible.evtAfter (h : EvtVisible u u') (hw : u.record.wf = true) (hw' : u'.record.wf = true) (i : Instr) :
    EvtVisible (evtAfter i u) (evtAfter i u') := by
  cases i
  case evtClear => exact ⟨rfl, nofun, rfl, nofun, h.ref, rfl, nofun, nofun⟩
  case evtPush d => exact h.pushRecord hw hw' d
  case evtUnpack => exact h.unpackUnit
  case evtYear => exact h.yearUnit
  case sysReset => exact .refl _
  case evtRefyh d | evtRefyl d | evtRefmon d | evtRefday d | evtRefhour d | evtRefmin d =>
    refine ⟨h.recCnt, h.record, h.valid, h.fields, ?_, rfl, nofun, nofun⟩
    simp [Machine.evtAfter, refAfter, h.ref]
  all_goals exact h

/-- A selector needs the same flag in both, and with the flag set it selects the same value. -/
theorem EvtVisible.selectField (h : EvtVisible u u') (hi : EvtInv u) {d : Byte} (hd : d.toNat ≤ 0x0E) :
    ∃ flag v v', selectField u d = some (flag, v) ∧ selectField u' d = some (flag, v') ∧ (flag = true → v' = v) := by
  have hread (hv : u.valid = true) (k : Nat) (hk : k < 8) : u'.record.read k = u.record.read k := by
    have h8 := hi.eventNeedsEight hv
    exact (h.record k (by omega)).symm
  unfold Machine.selectField
  rw [h.valid, h.yearValid]
  obtain hd | hd | hd | hd | hd : d.toNat ≤ 0x0A ∨ d.toNat = 0x0B ∨ d.toNat = 0x0C ∨ d.toNat = 0x0D ∨
      d.toNat = 0x0E := by omega
  · interval_cases d.toNat <;> exact ⟨_, _, _, rfl, rfl, fun hv => by rw [h.fields hv]⟩
  · rw [hd]
    exact ⟨_, _, _, rfl, rfl, fun hy => by rw [h.year hy]⟩
  · rw [hd]
    exact ⟨_, _, _, rfl, rfl, fun hy => by rw [h.dateOk hy]⟩
  · rw [hd]
    exact ⟨_, _, _, rfl, rfl, fun hv => by rw [hread hv 0 (by decide)]⟩
  · rw [hd]
    exact ⟨_, _, _, rfl, rfl, fun hv => by rw [hread hv 7 (by decide)]⟩

end

/-! ### The responses -/

section
variable {s s' : State}

/-- A byte that is answered is one that was collected. -/
theorem answerBufferByte_visible {k : Nat} {t t' : State} (h : DecVisible s.dec s'.dec) (hk : k < s.dec.cnt)
    (ht : answerBufferByte k s = .next t) (ht' : answerBufferByte k s' = .next t') : t'.rsp = t.rsp := by
  obtain ⟨_, rfl⟩ := answerBufferByte_next ht
  obtain ⟨_, rfl⟩ := answerBufferByte_next ht'
  rw [State.responded_rsp, State.responded_rsp, h.buf k hk]

/-- An operation that answers on a state what it answers on every state alike to it. -/
def AnswersAlike (i : Instr) (s s' : State) : Prop :=
  ∀ t t', exec i s = .next t → exec i s' = .next t' → t'.rsp = t.rsp

theorem answersAlike_of_responded {i : Instr} {v v' : State} {st : Status} {res : Res} {tx : List Byte}
    (h : exec i s = .next (v.responded st res tx)) (h' : exec i s' = .next (v'.responded st res tx)) :
    AnswersAlike i s s' := by
  intro t t' ht ht'
  cases h.symm.trans ht
  cases h'.symm.trans ht'
  rfl

/-- An operation of a unit whose registers are the same answers alike (`exec_next_of_sameUnit`). -/
theorem answersAlike_of_sameUnit {i : Instr} (hu : SameUnit i.unit s s') (hc : s'.cfg = s.cfg) : AnswersAlike i s s' := by
  intro t t' ht ht'
  cases (exec_next_of_sameUnit ht hu hc).symm.trans ht'
  rfl

section
variable (h : VisibleRegisters s s')
include h

theorem decRdcmd_answersAlike (hi : Inv s) : AnswersAlike .decRdcmd s s' := by
  cases hv : s.dec.valid
  · exact answersAlike_of_responded (exec_decRdcmd_of_not_valid hv) (exec_decRdcmd_of_not_valid (h.dec.valid.trans hv))
  · have h3 := (hi.heldFrame hv).atLeastThree
    intro t t' ht ht'
    rw [exec_decRdcmd_of_valid hv] at ht
    rw [exec_decRdcmd_of_valid (h.dec.valid.trans hv)] at ht'
    exact answerBufferByte_visible h.dec (by omega) ht ht'

theorem payloadLength_visible : payloadLength s'.dec = payloadLength s.dec := by
  rw [payloadLength, payloadLength, h.dec.cnt]

theorem decRdlen_answersAlike : AnswersAlike .decRdlen s s' := by
  cases hv : s.dec.valid
  · exact answersAlike_of_responded (exec_decRdlen_of_not_valid hv) (exec_decRdlen_of_not_valid (h.dec.valid.trans hv))
  · have hr := exec_decRdlen_of_valid (h.dec.valid.trans hv)
    rw [payloadLength_visible h] at hr
    exact answersAlike_of_responded (exec_decRdlen_of_valid hv) hr

theorem decRdpay_answersAlike (d : Byte) : AnswersAlike (.decRdpay d) s s' := by
  have hlen := payloadLength_visible h
  cases hv : s.dec.valid
  · exact answersAlike_of_responded (exec_decRdpay_of_not_valid hv d)
      (exec_decRdpay_of_not_valid (h.dec.valid.trans hv) d)
  · have hv' := h.dec.valid.trans hv
    obtain hd | hd := Nat.lt_or_ge d.toNat (payloadLength s.dec)
    · have hlt : 1 + d.toNat < s.dec.cnt := by
        unfold payloadLength at hd
        omega
      intro t t' ht ht'
      rw [exec_decRdpay_within hv hd] at ht
      rw [exec_decRdpay_within hv' (hlen ▸ hd)] at ht'
      exact answerBufferByte_visible h.dec hlt ht ht'
    · exact answersAlike_of_responded (exec_decRdpay_beyond hv hd) (exec_decRdpay_beyond hv' (hlen ▸ hd))

theorem decRdstat_answersAlike : AnswersAlike .decRdstat s s' := by
  have hw : statusWord s'.dec = statusWord s.dec := by
    rw [statusWord, statusWord, h.dec.cnt, h.dec.err, h.dec.ovf, h.dec.valid, h.dec.st]
  have hr : exec .decRdstat s' = .next (s'.responded .ok (statusWord s'.dec) []) := rfl
  rw [hw] at hr
  exact answersAlike_of_responded (s := s) rfl hr

theorem evtUnpack_answersAlike : AnswersAlike .evtUnpack s s' := by
  by_cases hc : s.evt.recCnt = 8
  · exact answersAlike_of_responded (st := .ok) (if_pos hc) (if_pos (h.evt.recCnt.trans hc))
  · exact answersAlike_of_responded (st := .decodeFailure) (if_neg hc) (if_neg (h.evt.recCnt.symm ▸ hc))

theorem evtRd_answersAlike (hi : Inv s) (d : Byte) : AnswersAlike (.evtRd d) s s' := by
  intro t t' ht ht'
  obtain hd | hd := Nat.lt_or_ge 0x0E d.toNat
  · cases (exec_evtRd_of_none (selectField_eq_none hd s.evt)).symm.trans ht
    cases (exec_evtRd_of_none (selectField_eq_none hd s'.evt)).symm.trans ht'
    rfl
  · obtain ⟨flag, v, v', hsel, hsel', hvalue⟩ := h.evt.selectField (inv_iff.1 hi).2.2.2.2 hd
    cases (exec_evtRd_of_selectField hsel).symm.trans ht
    cases (exec_evtRd_of_selectField hsel').symm.trans ht'
    cases flag
    · rfl
    · rw [hvalue rfl]

theorem evtYear_answersAlike : AnswersAlike .evtYear s s' := by
  cases hv : s.evt.valid
  · exact answersAlike_of_responded (exec_evtYear_of_not_valid hv) (exec_evtYear_of_not_valid (h.evt.valid.trans hv))
  · have hv' := h.evt.valid.trans hv
    by_cases hl : s.evt.ref.legal = true
    · have hl' : s'.evt.ref.legal = true := h.evt.ref.symm ▸ hl
      have hyear := (h.evt.latchYear hv).year rfl
      intro t t' ht ht'
      cases (exec_evtYear_of_legal hv hl).symm.trans ht
      cases (exec_evtYear_of_legal hv' hl').symm.trans ht'
      simp only [hyear]
    · exact answersAlike_of_responded (exec_evtYear_of_not_legal hv hl)
        (exec_evtYear_of_not_legal hv' (h.evt.ref.symm ▸ hl))

theorem decPush_answersAlike (hi : Inv s) (hi' : Inv s') (d : Byte) : AnswersAlike (.decPush d) s s' := by
  intro t t' ht ht'
  obtain ⟨u, st, res, hp, rfl⟩ := execDecPush_next ht
  obtain ⟨u', st', res', hp', rfl⟩ := execDecPush_next ht'
  obtain ⟨v', hv', -⟩ := h.dec.pushByte hi.bufForm hi'.bufForm d u st res hp
  rw [h.cfg, hv'] at hp'
  cases hp'
  rfl

/-- Alike states answer alike. An operation that is not named answers without reading what may differ. -/
theorem exec_answersAlike (hi : Inv s) (hi' : Inv s') (i : Instr) : AnswersAlike i s s' := by
  cases i
  case csInit | csByte d | csRdhi | csRdlo | csRdacc => exact answersAlike_of_sameUnit h.cs h.cfg
  case encStart d | encByte d | encEnd => exact answersAlike_of_sameUnit h.enc h.cfg
  case decPush d => exact decPush_answersAlike h hi hi' d
  case decRdcmd => exact decRdcmd_answersAlike h hi
  case decRdlen => exact decRdlen_answersAlike h
  case decRdpay d => exact decRdpay_answersAlike h d
  case decRdstat => exact decRdstat_answersAlike h
  case evtUnpack => exact evtUnpack_answersAlike h
  case evtRd d => exact evtRd_answersAlike h hi d
  case evtYear => exact evtYear_answersAlike h
  all_goals exact answersAlike_of_responded (st := .ok) rfl rfl

/-! ### The registers -/

theorem exec_decVisible (hi : Inv s) (hi' : Inv s') {i : Instr} {t t' : State} (ht : exec i s = .next t)
    (ht' : exec i s' = .next t') : DecVisible t.dec t'.dec := by
  obtain ⟨d, st, res, rfl, hp, -⟩ | ⟨rfl, hd⟩ | ⟨rfl, hd⟩ | ⟨hk, hd⟩ := exec_dec_cases ht
  · obtain ⟨v', hv', hvis⟩ := h.dec.pushByte hi.bufForm hi'.bufForm d _ _ _ hp
    obtain ⟨u', st', res', hp', rfl⟩ := execDecPush_next ht'
    rw [h.cfg, hv'] at hp'
    cases hp'
    exact hvis
  · cases ht'
    rw [hd]
    exact decVisible_forgetFrame ..
  · cases ht'
    rw [hd]
    exact .refl _
  · rw [hd, exec_keepsDec hk ht']
    exact h.dec

theorem exec_visibleRegisters (hi : Inv s) (hi' : Inv s') {i : Instr} {t t' : State} (ht : exec i s = .next t)
    (ht' : exec i s' = .next t') : VisibleRegisters t t' := by
  refine ⟨?_, ?_, ?_, exec_decVisible h hi hi' ht ht', ?_⟩
  · rw [exec_cfg ht, exec_cfg ht', h.cfg]
  · rw [exec_cs ht, exec_cs ht', h.cs]
  · rw [exec_enc ht, exec_enc ht', h.enc]
  · rw [exec_evt ht, exec_evt ht']
    exact h.evt.evtAfter hi.recForm hi'.recForm i

end

end

/-- Alike states stay alike under an operation. -/
theorem exec_sameVisible {i : Instr} {s s' t : State} (hi : Inv s) (hi' : Inv s') (h : SameVisible s s')
    (ht : exec i s = .next t) : ∃ t', exec i s' = .next t' ∧ SameVisible t t' := by
  obtain ⟨hregs, hin, -, htx⟩ := sameVisible_iff.1 h
  obtain ⟨t', _, ht', -, -⟩ := exec_total i hi'
  have hrsp : t'.rsp = t.rsp := exec_answersAlike hregs hi hi' i t t' ht ht'
  refine ⟨t', ht', sameVisible_iff.2 ⟨exec_visibleRegisters hregs hi hi' ht ht', ?_, hrsp, ?_⟩⟩
  · rw [exec_inputs ht, exec_inputs ht', hin]
  · rw [exec_txLog ht, exec_txLog ht', htx, State.sent, State.sent, hrsp]

/-- Settles O55: the same input is presented to both states, and a reset, a word that is no operation and every
operation (`exec_sameVisible`) keep them alike. -/
theorem unwrittenContentsAreUnobservable : Obligations.UnwrittenContentsAreUnobservable := by
  intro s s' t hi hi' h hstep
  obtain ⟨hregs, hin, hrsp, htx⟩ := sameVisible_iff.1 h
  have htaken (l : List Input) : SameVisible { s with inputs := l } { s' with inputs := l } :=
    sameVisible_iff.2 ⟨⟨hregs.cfg, hregs.cs, hregs.enc, hregs.dec, hregs.evt⟩, rfl, hrsp, htx⟩
  match hs : s.inputs with
  | [] =>
    cases (step_of_inputs_nil hs).symm.trans hstep
    exact ⟨s', step_of_inputs_nil (hin.trans hs), h⟩
  | .rst :: rest =>
    cases (step_rst hs).symm.trans hstep
    exact ⟨_, step_rst (hin.trans hs), sameVisible_iff.2 ⟨⟨hregs.cfg, rfl, rfl, .refl _, .refl _⟩, rfl, rfl, htx⟩⟩
  | .command cw :: rest =>
    cases hd : decode cw with
    | ok i =>
      obtain ⟨t', ht', hvis⟩ := exec_sameVisible ((sameRegisters_withInputs s rest).inv hi)
        ((sameRegisters_withInputs s' rest).inv hi') (htaken rest) ((step_of_decode_ok hs hd).symm.trans hstep)
      exact ⟨t', (step_of_decode_ok (hin.trans hs) hd).trans ht', hvis⟩
    | error e =>
      cases (step_of_decode_error hd hs).symm.trans hstep
      exact ⟨_, step_of_decode_error hd (hin.trans hs), sameVisible_iff.2
        ⟨⟨hregs.cfg, hregs.cs, hregs.enc, hregs.dec, hregs.evt⟩, rfl, rfl, congrArg (· ++ []) htx⟩⟩

end Sys2Proof.Machine
end

section
/-!
PROOF. The host's retrieval (44_host_controller.md, section 4). From a state that meets the invariant every operation
answers (`exec_total`), so every part of the host's program gives a result and leaves such a state.
-/

namespace Sys2Proof.Machine

/-! ### Operations as the host performs them -/

section
variable {s : State} (h : Inv s)
include h

theorem perform_total (i : Instr) : ∃ t r, perform i s = some (t, r) ∧ Inv t := by
  obtain ⟨t, r, ht, hr, hi⟩ := exec_total i h
  exact ⟨t, r, perform_eq ht hr, hi⟩

theorem performAll_total (is : List Instr) :
    ∃ t rs, performAll is s = some (t, rs) ∧ Inv t ∧ rs.length = is.length := by
  induction is generalizing s with
  | nil => exact ⟨s, [], rfl, h, rfl⟩
  | cons i is ih =>
    obtain ⟨v, r, hv, hiv⟩ := perform_total h i
    obtain ⟨t, rs, ht, hit, hlen⟩ := ih hiv
    exact ⟨t, r :: rs, by simp [performAll, hv, ht], hit, by simp [hlen]⟩

theorem receive_total (bytes : List Byte) : ∃ t code, receive bytes s = some (t, code) ∧ Inv t := by
  induction bytes generalizing s with
  | nil => exact ⟨s, none, rfl, h⟩
  | cons d rest ih =>
    obtain ⟨v, r, hv, hiv⟩ := perform_total h (.decPush d)
    by_cases hmore : r.status = Status.needMore.code
    · obtain ⟨t, code, ht, hit⟩ := ih hiv
      exact ⟨t, code, by simp [receive, hv, hmore, ht], hit⟩
    · exact ⟨v, some r.status, by simp [receive, hv, hmore], hiv⟩

theorem loadRecord_total (indices : List Nat) : ∃ t, loadRecord indices s = some t ∧ Inv t := by
  induction indices generalizing s with
  | nil => exact ⟨s, rfl, h⟩
  | cons k rest ih =>
    obtain ⟨v, r, hv, hiv⟩ := perform_total h (.decRdpay (BitVec.ofNat 8 k))
    obtain ⟨w, r', hw, hiw⟩ := perform_total hiv (.evtPush (resByte r))
    obtain ⟨t, ht, hit⟩ := ih hiw
    exact ⟨t, by simp [loadRecord, hv, hw, ht], hit⟩

end

/-! ### One iteration -/

/-- Ten answers make an event. -/
theorem exists_eventOf {rs : List Response} (h : rs.length = 10) : ∃ e, eventOf rs = some e := by
  match rs, h with
  | [_, _, _, _, _, _, _, _, _, _], _ => exact ⟨_, rfl⟩

/-- Three answers make a cursor. -/
theorem exists_cursorOf {rs : List Response} (h : rs.length = 3) : ∃ c, cursorOf rs = some c := by
  match rs, h with
  | [_, _, _], _ => exact ⟨_, rfl⟩

/-- The part of an iteration gives a result, leaves a state that meets the invariant, and is no stop at the limit. -/
def Iterates (o : Option (State × Iteration)) : Prop :=
  ∃ t it, o = some (t, it) ∧ Inv t ∧ it ≠ .stop .limitReached

section
variable {s : State} (h : Inv s)
include h

theorem takeRecord_iterates (cls : LogClass) (now : Reference) : Iterates (takeRecord cls now s) := by
  obtain ⟨s1, r1, h1, hi1⟩ := perform_total h .evtClear
  obtain ⟨s2, h2, hi2⟩ := loadRecord_total hi1 [0, 1, 2, 3, 4, 5, 6, 7]
  obtain ⟨s3, unpacked, h3, hi3⟩ := perform_total hi2 .evtUnpack
  obtain ⟨s4, rs4, h4, hi4, -⟩ := performAll_total hi3 (evtSetRef now ++ [.evtYear])
  obtain ⟨s5, marker, h5, hi5⟩ := perform_total hi4 (.evtRd (endMarker cls))
  obtain ⟨-, hend⟩ | ⟨-, -, hend⟩ | ⟨-, -, hend⟩ := recordEnd_cases unpacked.status marker.res
  · exact ⟨s5, .stop .decodeFailure, by simp [takeRecord, h1, h2, h3, h4, h5, hend], hi5, by simp⟩
  · exact ⟨s5, .stop .endOfLog, by simp [takeRecord, h1, h2, h3, h4, h5, hend], hi5, by simp⟩
  · obtain ⟨s6, fields, h6, hi6, hlen6⟩ := performAll_total hi5 (eventSelectors.map .evtRd)
    obtain ⟨s7, cursor, h7, hi7, hlen7⟩ := performAll_total hi6 (readPayloadOps [8, 9, 10])
    obtain ⟨e, he⟩ := exists_eventOf hlen6
    obtain ⟨c, hc⟩ := exists_cursorOf hlen7
    exact ⟨s7, .event e c, by simp [takeRecord, h1, h2, h3, h4, h5, hend, h6, h7, he, hc], hi7, by simp⟩

theorem takeFrame_iterates (cls : LogClass) (now : Reference) : Iterates (takeFrame cls now s) := by
  obtain ⟨s1, command, h1, hi1⟩ := perform_total h .decRdcmd
  obtain ⟨s2, length, h2, hi2⟩ := perform_total hi1 .decRdlen
  by_cases hframe : command.res = zextByte Config.readEventCmd ∧ Config.recLen + Config.cursorLen ≤ length.res.toNat
  · have htake : takeFrame cls now s = takeRecord cls now s2 := by simp [takeFrame, h1, h2, hframe]
    rw [htake]
    exact takeRecord_iterates hi2 cls now
  · have hstop : takeFrame cls now s = some (s2, .stop .truncated) := by
      simp only [takeFrame, h1, h2, Option.bind_eq_bind, Option.bind_some, if_neg hframe]
      rfl
    exact ⟨s2, _, hstop, hi2, by simp⟩

theorem iterate_iterates (cls : LogClass) (cur : Cursor) (x : Exchange) : Iterates (iterate cls cur x s) := by
  obtain ⟨s1, rs, h1, hi1, -⟩ := performAll_total h (requestOps cur)
  obtain ⟨s2, completion, h2, hi2⟩ := receive_total hi1 x.received
  cases completion with
  | none => exact ⟨s2, .stop .timedOut, by simp [iterate, h1, h2], hi2, by simp⟩
  | some code =>
    by_cases hok : code = Status.frameOk.code
    · have htake : iterate cls cur x s = takeFrame cls x.now s2 := by simp [iterate, h1, h2, hok]
      rw [htake]
      exact takeFrame_iterates hi2 cls x.now
    · exact ⟨s2, .stop (.malformed code), by simp [iterate, h1, h2, hok], hi2, by simp⟩

end

/-! ### A class's loop and a run of classes -/

/-- A class's loop gives a result that keeps the events before it, first; without a limit it does not stop at one. -/
theorem classLoop_total {s : State} (h : Inv s) (cls : LogClass) (limit : Option Nat) (xs : List Exchange) (cur : Cursor)
    (events : List Event) : ∃ r, classLoop cls limit xs cur events s = some r ∧ Inv r.block ∧ events <+: r.events ∧
      (limit = none → r.why ≠ .limitReached) := by
  induction xs generalizing cur events s with
  | nil =>
    cases hl : limitHit limit events with
    | true => exact ⟨_, classLoop_of_limitHit hl, h, List.prefix_rfl, fun hn => by rw [hn] at hl; cases hl⟩
    | false =>
      obtain ⟨t, rs, ht, hit, -⟩ := performAll_total h (requestOps cur)
      exact ⟨⟨t, events, [], .timedOut⟩, by simp [classLoop, hl, ht], hit, List.prefix_rfl, fun _ => by simp⟩
  | cons x xs ih =>
    cases hl : limitHit limit events with
    | true => exact ⟨_, classLoop_of_limitHit hl, h, List.prefix_rfl, fun hn => by rw [hn] at hl; cases hl⟩
    | false =>
      obtain ⟨t, it, ht, hit, hne⟩ := iterate_iterates h cls cur x
      cases it with
      | stop why =>
        exact ⟨⟨t, events, xs, why⟩, by simp [classLoop, hl, ht], hit, List.prefix_rfl, fun _ hw => hne (by rw [← hw])⟩
      | event e next =>
        obtain ⟨r, hr, hir, hpre, hwhy⟩ := ih hit next (events ++ [e])
        exact ⟨r, by simp [classLoop, hl, ht, hr], hir, (List.prefix_append events [e]).trans hpre, hwhy⟩

theorem runClasses_total {s : State} (h : Inv s) (limit : Option Nat) (classes : List LogClass) (xs : List Exchange)
    (events : List Event) : ∃ r, runClasses limit classes xs events s = some r ∧ Inv r.block ∧ events <+: r.events := by
  induction classes generalizing xs events s with
  | nil => exact ⟨_, rfl, h, List.prefix_rfl⟩
  | cons cls classes ih =>
    obtain ⟨c, hc, hic, hpre, -⟩ := classLoop_total h cls limit xs (initialCursor cls) events
    by_cases hw : c.why = .limitReached
    · exact ⟨⟨c.block, c.events, [(cls, c.why)]⟩, by simp [runClasses, hc, hw], hic, hpre⟩
    · obtain ⟨r, hr, hir, hpre'⟩ := ih hic c.rest c.events
      exact ⟨{ r with ends := (cls, c.why) :: r.ends }, by simp [runClasses, hc, hw, hr], hir, hpre.trans hpre'⟩

/-! ### The obligations -/

/-- Settles O59: a run gives a result whose events begin with those it was given (`runClasses_total`). -/
theorem retrievalAlwaysKeepsItsEvents : Obligations.RetrievalAlwaysKeepsItsEvents := by
  refine fun limit xs s h => ⟨fun classes events => ?_, fun requested => ⟨?_, rfl⟩⟩
  · obtain ⟨⟨t, events', ends⟩, hr, hit, more, rfl⟩ := runClasses_total h limit classes xs events
    exact ⟨t, more, ends, hr, hit⟩
  · obtain ⟨r, hr, -⟩ := runClasses_total h limit requested.inOrder xs []
    exact ⟨r.events, r.timedOut, by simp [retrievalRun, retrieveLogs, hr, RunResult.visible]⟩

/-- The classes of two ends that timed out, in order (44_host_controller.md R255). -/
theorem timedOut_pair (block : State) (events : List Event) (first second : LogClass × ClassEnd) :
    (⟨block, events, [first, second]⟩ : RunResult).timedOut =
      (if first.2 = .timedOut then [first.1] else []) ++ (if second.2 = .timedOut then [second.1] else []) := by
  by_cases h1 : first.2 = .timedOut <;> by_cases h2 : second.2 = .timedOut <;> simp [RunResult.timedOut, h1, h2]

/-- Settles O60: without a limit neither loop stops the run, and the second loop keeps the events of the first, first
(`classLoop_events`). -/
theorem retrievalIsStandardThenGrade2 : Obligations.RetrievalIsStandardThenGrade2 := by
  intro xs s h
  obtain ⟨first, hfirst, hi, -, hwhy1⟩ := classLoop_total h .standard none xs (initialCursor .standard) []
  obtain ⟨second, hsecond, -, -, hwhy2⟩ := classLoop_total hi .grade2 none first.rest (initialCursor .grade2) []
  have hgo : classLoop .grade2 none first.rest (initialCursor .grade2) first.events first.block =
      some { second with events := first.events ++ second.events } := by
    rw [classLoop_events, hsecond]
    rfl
  have hrun : retrieveLogs none ⟨true, true⟩ xs s = some ⟨second.block, first.events ++ second.events,
      [(.standard, first.why), (.grade2, second.why)]⟩ := by
    simp [retrieveLogs, ClassSet.inOrder, runClasses, hfirst, hwhy1, hgo, hwhy2]
  refine ⟨first, second, hfirst, hsecond, hrun, ?_⟩
  rw [retrievalRun, if_pos rfl, hrun, Option.map_some, RunResult.visible, timedOut_pair]

end Sys2Proof.Machine
end
